-- ==== Sys2Proof/Word.lean ====
section
/-! DEFINITION. The word of the memory bus: 16 bits (spec 00_scope.md, 4.2). -/

namespace Sys2Proof

/-- One word of memory, 16 bits. -/
abbrev Word := BitVec 16

/-- The word that holds a number (its low 16 bits). -/
abbrev wordOf (n : Nat) : Word := BitVec.ofNat 16 n

end Sys2Proof
end

