-- ==== Sys2Proof/Syntax.lean ====
section
/-! DEFINITION. The commands of the block: one constructor for each row of spec/opcode_table.json. -/

namespace Sys2Proof

/-- The two webs (R97). -/
inductive WebId where
  | upper
  | lower
  deriving DecidableEq, Repr

/-- The two tachometer sources (3.1). -/
inductive Source where
  | a
  | b
  deriving DecidableEq, Repr

/-- The five qualified inputs (R92). -/
inductive InputLine where
  | breakU
  | breakL
  | spliceU
  | spliceL
  | estop
  deriving DecidableEq, Repr

/-- One flag for each storage group of the test unit, set for a group that failed (R175). -/
structure StoreFlags where
  channel   : Bool
  curveLink : Bool
  queue     : Bool
  report    : Bool
  deriving DecidableEq, Repr

/-- The commands. A host access carries its address or its value where its row leaves them open. -/
inductive Instr where
  /-- ADOPT: the host writes code 1 to the command word (R146). -/
  | adopt
  /-- DISCARD: the host writes code 2 to the command word (R156). -/
  | discard
  /-- SET_MODE: the host writes code 3 to the command word (R125). -/
  | setMode
  /-- RECOVER: the host writes code 4 to the command word (R140). -/
  | recover
  /-- LOCK: the host writes code 5 to the command word (R157). -/
  | lock
  /-- CLEAR_DELTAS: the host writes code 6 to the command word (R164). -/
  | clearDeltas
  /-- CLEAR_NOTES: the host writes code 7 to the command word (R48). -/
  | clearNotes
  /-- SELF_TEST: the host writes code 8 to the command word (R176). -/
  | selfTest
  /-- RESTART: the host writes code 9 to the command word (R177). -/
  | restart
  /-- BAD_CODE: the host writes a code from 10 to 65,535 to the command word (R159). -/
  | badCode (code : Word)
  /-- ENABLE: the host writes to the web command word a value with code 1 in a field (R101). -/
  | enable (value : Word)
  /-- RUN: the host writes to the web command word a value with code 2 in a field (R102). -/
  | run (value : Word)
  /-- REARM: the host writes to the web command word a value with code 3 in a field (R103). -/
  | rearm (value : Word)
  /-- DISABLE: the host writes to the web command word a value with code 4 in a field (R104). -/
  | disable (value : Word)
  /-- WEB_BAD_CODE: the host writes to the web command word a value with an unused code (R100). -/
  | webBadCode (value : Word)
  /-- HOST_CHANNEL_WRITE: the host begins a write to an output-image word (R11). -/
  | hostChannelWrite (addr value : Word)
  /-- HOST_WRITE_COMPLETION: the host write that holds the port completes (R27). -/
  | hostWriteCompletion
  /-- BLOCKED_WRITE: the host begins a write that the path unit may block (R4). -/
  | blockedWrite (addr value : Word)
  /-- LIVENESS_WRITE: the host writes the liveness word (R129). -/
  | livenessWrite (value : Word)
  /-- ATTENTION_MASK_WRITE: the host writes the attention mask (R171). -/
  | attentionMaskWrite (value : Word)
  /-- ACKNOWLEDGE: the host writes the acknowledge word (R172). -/
  | acknowledge (value : Word)
  /-- EVENT_READ_INDEX_WRITE: the host writes the event read index (R7). -/
  | eventReadIndexWrite (value : Word)
  /-- CONTROL_WRITE: the host writes a control word with no row of its own (R6). -/
  | controlWrite (addr value : Word)
  /-- PLAIN_WRITE: the host writes a word outside the control area (R10). -/
  | plainWrite (addr value : Word)
  /-- ATTENTION_SUMMARY_READ: the host reads the attention summary word 0x004F (R173). -/
  | attentionSummaryRead
  /-- RESET_ASSERT: the RESET line asserts (R13). -/
  | resetAssert
  /-- START_UP: the RESET line is released (R174). -/
  | startUp
  /-- QUALIFIER_START: the raw level of a qualified input takes the level given (R92). -/
  | qualifierStart (line : InputLine) (asserted : Bool)
  /-- BREAK_QUALIFIED_ASSERTION: a break line has held its asserted level for Q (R106). -/
  | breakQualifiedAssertion (web : WebId)
  /-- BREAK_QUALIFIED_NEGATION: a break line has held its negated level for Q (R108). -/
  | breakQualifiedNegation (web : WebId)
  /-- SPLICE_QUALIFIED_ASSERTION: a splice line has held its asserted level for Q (R109). -/
  | spliceQualifiedAssertion (web : WebId)
  /-- SPLICE_QUALIFIED_NEGATION: a splice line has held its negated level for Q (R111). -/
  | spliceQualifiedNegation (web : WebId)
  /-- ESTOP_QUALIFIED_ASSERTION: ESTOP has held its asserted level for Q (R134). -/
  | estopQualifiedAssertion
  /-- ESTOP_QUALIFIED_NEGATION: ESTOP has held its negated level for Q (R137). -/
  | estopQualifiedNegation
  /-- SPLICE_WINDOW_EXPIRY: a web's splice timer expires (R112). -/
  | spliceWindowExpiry (web : WebId)
  /-- TRIP_RELEASED: a web's release timer expires (R119). -/
  | tripReleased (web : WebId)
  /-- TACH_PULSE: a pulse on a tachometer input (R50). -/
  | tachPulse (source : Source)
  /-- SILENCE: a source's silence timer expires (R51). -/
  | silence (source : Source)
  /-- GATE_END: the gate timer expires (R55). -/
  | gateEnd
  /-- RAMP_TICK: the ramp timer expires (R69). -/
  | rampTick
  /-- GAP_ASSERT: the GAP line asserts (R77). -/
  | gapAssert
  /-- GAP_NEGATE: the GAP line negates (R15). -/
  | gapNegate
  /-- PORT_GRANT: the port becomes free and the arbiter grants the next access (R14). A plain host
  read has no row of its own: its address is given here when one waits (R2). -/
  | portGrant (read : Option Word)
  /-- IMPOSED_WRITE_COMPLETION: the imposed write that holds the port completes (R73). -/
  | imposedWriteCompletion
  /-- SCAN_STALL: the scan-stall timer expires (R83). -/
  | scanStall
  /-- RING_WRITE_COMPLETION: the ring write that holds the port completes (R169). -/
  | ringWriteCompletion
  /-- MIRROR_WRITE_COMPLETION: the mirror write that holds the port completes (R165). -/
  | mirrorWriteCompletion
  /-- ADOPTION_READ_COMPLETION: the adoption read that holds the port completes (R147). -/
  | adoptionReadCompletion
  /-- CAPTURE_READ_COMPLETION: the capture read that holds the port completes (R152). -/
  | captureReadCompletion
  /-- LIVENESS_EXPIRED: the liveness timer expires (R131). -/
  | livenessExpired
  /-- SELF_TEST_DONE: the storage test ends, with the groups that failed (R175). -/
  | selfTestDone (failed : StoreFlags)
  /-- TIMESTAMP_TICK: 10 ms have passed on the timestamp counter (R167). -/
  | timestampTick
  /-- WEB_COMMAND_NO_ACTION: the host writes 0 in both fields of the web command word (R100). -/
  | webCommandNoAction (value : Word)
  deriving DecidableEq, Repr

end Sys2Proof
end

