-- ==== Sys2Proof/WellFormed.lean ====
section
/-! DEFINITION. Which operands a row of the table admits. The machine gives every command a meaning,
well-formed or not: the path unit classes a host write by its address and value whatever row names it. -/

namespace Sys2Proof

/-- The code in the upper web's field of the web command word, bits 0 to 2 (11.2). -/
def upperField (v : Word) : Nat := v.toNat % 8

/-- The code in the lower web's field of the web command word, bits 4 to 6 (11.2). -/
def lowerField (v : Word) : Nat := v.toNat / 16 % 8

/-- Neither field holds an unused code, 5 to 7 (5.3). -/
def webFieldsUsed (v : Word) : Bool := upperField v ≤ 4 && lowerField v ≤ 4

/-- A web command word with the given code in at least one field and no unused code. -/
def webFieldHolds (code : Nat) (v : Word) : Bool :=
  webFieldsUsed v && (upperField v == code || lowerField v == code)

/-- A host write that some state blocks (R6, R8, R9). -/
def mayBeBlocked (addr value : Word) : Bool :=
  (addr == 0x0000#16 && value != 9#16) || (addr == 0x0009#16 && 63 < value.toNat)
    || (0x0040 ≤ addr.toNat && addr.toNat ≤ 0x06FF)

/-- A write to a control word that has no row of its own: argument 1, the acknowledge mode, a host
word, or code 0 to the command word, which is no command (R6, R159). -/
def isOtherControlWrite (addr value : Word) : Bool :=
  addr.toNat ≤ 0x003F && !([4, 5, 6, 8, 9].contains addr.toNat) && (addr != 0#16 || value == 0#16)

/-- The operands of a command are those its row speaks of. -/
def Instr.wellFormed : Instr → Bool
  | .badCode code => 10 ≤ code.toNat
  | .enable v => webFieldHolds 1 v
  | .run v => webFieldHolds 2 v
  | .rearm v => webFieldHolds 3 v
  | .disable v => webFieldHolds 4 v
  | .webBadCode v => !webFieldsUsed v
  | .webCommandNoAction v => upperField v == 0 && lowerField v == 0
  | .hostChannelWrite addr _ => 0x1000 ≤ addr.toNat && addr.toNat ≤ 0x7FFF
  | .blockedWrite addr value => mayBeBlocked addr value
  | .eventReadIndexWrite v => v.toNat ≤ 63
  | .controlWrite addr value => isOtherControlWrite addr value
  | .plainWrite addr _ => 0x0040 ≤ addr.toNat
  | .portGrant (some addr) => addr != 0x004F#16
  | .adopt | .discard | .setMode | .recover | .lock | .clearDeltas | .clearNotes | .selfTest
  | .restart | .hostWriteCompletion | .livenessWrite _ | .attentionMaskWrite _ | .acknowledge _
  | .attentionSummaryRead | .resetAssert | .startUp | .qualifierStart _ _
  | .breakQualifiedAssertion _ | .breakQualifiedNegation _ | .spliceQualifiedAssertion _
  | .spliceQualifiedNegation _ | .estopQualifiedAssertion | .estopQualifiedNegation
  | .spliceWindowExpiry _ | .tripReleased _ | .tachPulse _ | .silence _ | .gateEnd | .rampTick
  | .gapAssert | .gapNegate | .portGrant none | .imposedWriteCompletion | .scanStall
  | .ringWriteCompletion | .mirrorWriteCompletion | .adoptionReadCompletion
  | .captureReadCompletion | .livenessExpired | .selfTestDone _ | .timestampTick => true

end Sys2Proof
end

