-- ==== Sys2Proof/Config.lean ====
section
/-! DEFINITION. The values the spec leaves open: constants with no body, of which nothing can be proved. -/

namespace Sys2Proof

/-- FREE VALUE (R175, log 12). Which of the first three storage groups an unfinished self-test had
already passed when a RESTART overtook it: bit 0 the channel store, bit 1 the curve and link store,
bit 2 the queue store. The fourth group cannot have been passed, since passing it ends the test. -/
opaque Config.freeTestProgress : Nat → BitVec 3

end Sys2Proof
end

