-- ==== Sys2Proof/Machine/State.lean ====
section
/-! DEFINITION. The state of the block as plain data: one structure for each unit of spec 00_scope.md
section 2, the pins, the memory behind the port and the queue of waiting commands. -/

namespace Sys2Proof.Machine

/-! ### Names and codes -/

/-- The guard mode (R123). -/
inductive Mode where
  | unprofiled
  | observe
  | enforce
  | frozen
  | safe
  deriving DecidableEq, Repr

/-- The state of a web sequencer (R97). -/
inductive WebState where
  | off
  | threading
  | running
  | splicing
  | broken
  deriving DecidableEq, Repr

/-- The governing state of a channel (R30, R31). -/
inductive Governing where
  | off
  | threading
  | running
  | broken
  deriving DecidableEq, Repr

/-- The owner of a channel (R21). -/
inductive Owner where
  | upper
  | lower
  | shared
  deriving DecidableEq, Repr

/-- The kind of a channel, in kind order (R22). -/
inductive Kind where
  | burner
  | damper
  | fan
  | chillValve
  | rollTrim
  | other
  deriving DecidableEq, Repr

/-- The two sides of the port arbiter (R14). -/
inductive Side where
  | host
  | guard
  deriving DecidableEq, Repr

/-- The fault action of a profile (R131). -/
inductive FaultAction where
  | freeze
  | safe
  deriving DecidableEq, Repr

/-- The recovery method of a profile (R140). -/
inductive RecoveryMethod where
  | command
  | resetOnly
  deriving DecidableEq, Repr

/-- The work for which BUSY is set (R161); `none` is BUSY clear. -/
inductive Work where
  | none
  | adoption
  | selfTest
  | startUp
  | restart
  deriving DecidableEq, Repr

/-- The results of a web command (5.3, 11.1). -/
inductive WebResult where
  | none
  | done
  | wrongState
  | breakActive
  | wrongMode
  | noWeb
  | badCode
  deriving DecidableEq, Repr

/-- The results of a command (R163, 11.1). -/
inductive CommandResult where
  | none
  | pending
  | done
  | badCode
  | badArgument
  | wrongMode
  | websActive
  | locked
  | selfTestFailed
  | rejected
  | causePresent
  | notPermitted
  deriving DecidableEq, Repr

/-- The attention causes (11.1). -/
inductive Cause where
  | events
  | command
  | webBreak
  | liveness
  | estop
  | stall
  | speed
  | profile
  deriving DecidableEq, Repr

/-- The event kinds (11.1). -/
inductive EventKind where
  | breakTaken
  | breakDeferred
  | spliceStart
  | spliceEnd
  | spliceTransient
  | webState
  | tripReleased
  | bandChange
  | speedSourceSwitch
  | speedUnknown
  | speedRegained
  | clampNote
  | absorbNote
  | range
  | livenessExpired
  | estopAsserted
  | estopReleased
  | safeStandEntered
  | recovered
  | scanStall
  | scanStallCleared
  | profileAdopted
  | profileRejected
  | profileDiscarded
  | modeChange
  | selfTestDone
  | restarted
  deriving DecidableEq, Repr

/-- The reasons for which a profile is rejected (11.1). -/
inductive RejectReason where
  | checkSum
  | format
  | count
  | timingField
  | channelAddress
  | channelDuplicate
  | channelOwner
  | channelCurve
  | channelValue
  | channelWord
  | curveOrder
  | curveValue
  | linkIndex
  | linkChain
  deriving DecidableEq, Repr

/-- A timer that counts milliseconds: stopped, or running with the time left (4.2, 3.1, 5.2). -/
abbrev Timer := Option Nat

/-! ### The memory and the accesses on it -/

/-- The memory behind the port (R1): the words listed, by rising address. -/
abbrev Memory := List (Nat × Word)

/-- What a host access is classed as when it begins (R1, R12). -/
inductive AccessClass where
  /-- begun while RESET was held: performed unchanged, nothing handed on (R12, R13) -/
  | transparent
  /-- a read (R2) -/
  | read
  /-- a performed write of the control area (R6) -/
  | control
  /-- a performed write of the guard area, general memory, the input image or a plain output word -/
  | plain
  /-- a channel-word write that the channel unit ruled to be performed with a value (R11) -/
  | channel
  deriving DecidableEq, Repr

/-- An access that the host makes: `value` is `none` for a read. -/
structure HostRequest where
  addr  : Word
  value : Option Word
  deriving DecidableEq, Repr

/-- A host access under way, with the class it had at its beginning and the value it is performed
with (0 for a read). -/
structure HostAccess where
  addr  : Word
  isRead : Bool
  value : Word
  cls   : AccessClass
  deriving DecidableEq, Repr

/-- The access that holds the port (R14, R16). `live` is false once the work that presented a guard
access has been emptied or abandoned: the access still completes whole and changes nothing else
(R13, R79, R155). -/
inductive PortAccess where
  | host
  | imposed (channel : Nat) (addr value : Word) (live : Bool)
  | ring (addr value : Word) (live : Bool)
  | mirror (addr value : Word) (live : Bool)
  | adoptionRead (addr : Word) (live : Bool)
  | captureRead (channel : Nat) (addr : Word) (live : Bool)
  deriving DecidableEq, Repr

/-! ### The units -/

/-- The input pins that have a level, but for the five qualified inputs, which the web unit keeps
(2.2). -/
structure Pins where
  resetHeld : Bool
  gap       : Bool
  /-- the WEBS strap on the board: true for two webs -/
  strapWebs : Bool
  /-- the QUAL strap on the board: true for 20 ms -/
  strapQual : Bool
  deriving DecidableEq, Repr

/-- The path unit (R1 to R13). -/
structure PathUnit where
  blocked  : Nat
  host     : Option HostAccess
  /-- the accesses that the host makes once its bus is released, oldest first (log 6) -/
  held     : List HostRequest
  /-- the value returned by the last host read (R2) -/
  hostData : Word
  deriving DecidableEq, Repr

/-- The port arbiter (R14). -/
structure ArbiterUnit where
  record : Side
  port   : Option PortAccess
  deriving DecidableEq, Repr

/-- One entry of the channel table (2.1). -/
structure ChannelEntry where
  addr         : Word
  owner        : Owner
  kind         : Kind
  enabled      : Bool
  pinAtOnce    : Bool
  curve        : Nat
  slewUp       : Nat
  slewDown     : Nat
  safeValue    : Nat
  breakValue   : Nat
  threadingCap : Nat
  deriving DecidableEq, Repr

/-- One entry of the active channel table with its dynamic record (2.2). The record of a disabled
entry is never read (R20). The pending item is the impose queue's entry for the channel (R28). -/
structure Channel where
  cfg        : ChannelEntry
  requested  : Option Nat
  applied    : Nat
  target     : Nat
  inFlight   : Bool
  clampNote  : Bool
  absorbNote : Bool
  follower   : Bool
  /-- the latest change of the governing state that came while the channel's entry held the port or
  its host write was in flight is a pin that queues the channel at once (R73, R27; log 20) -/
  pinHeld    : Bool
  deriving DecidableEq, Repr

/-- A follower link (R86). -/
structure Link where
  leader   : Nat
  follower : Nat
  offset   : Int
  enabled  : Bool
  deriving DecidableEq, Repr

/-- The channel unit (chapter 2). -/
structure ChannelUnit where
  chans    : List Channel
  links    : List Link
  absorbed : Nat
  deriving DecidableEq, Repr

/-- One breakpoint of a curve (R59). -/
structure Breakpoint where
  threshold : Nat
  min       : Nat
  max       : Nat
  deriving DecidableEq, Repr

/-- The state of one tachometer source (3.1). -/
structure SourceState where
  count  : Nat
  timer  : Timer
  silent : Bool
  /-- a pulse of this millisecond restarted the timer while it ran: an expiry that comes together with
  that pulse, and after it, is none (R57; log 2) -/
  renewed : Bool
  deriving DecidableEq, Repr

/-- The speed unit (chapter 3). -/
structure SpeedUnit where
  srcA       : SourceState
  srcB       : SourceState
  active     : Option Source
  /-- the speed state: true for VALID, false for UNKNOWN -/
  valid      : Bool
  reported   : Nat
  gateTimer  : Timer
  curves     : List (List Breakpoint)
  bands      : List Nat
  gate       : Nat
  ppmA       : Nat
  ppmB       : Nat
  silence    : Nat
  hysteresis : Nat
  deriving DecidableEq, Repr

/-- An entry of the impose queue (R74). `pin` marks a pinned value, one that a pin placed (R70, R71). -/
structure QueueEntry where
  channel : Nat
  value   : Nat
  granted : Bool
  pin     : Bool
  deriving DecidableEq, Repr

/-- The ramp unit with the impose queue (chapter 4). -/
structure RampUnit where
  rampTimer  : Timer
  queue      : List QueueEntry
  stallTimer : Timer
  stallFlag  : Bool
  tick       : Nat
  gapTimeout : Nat
  deriving DecidableEq, Repr

/-- A qualified input (R92): the raw level, the qualified level, the time for which a differing raw
level has been held while the qualifier times, and the delta flag (R95). -/
structure InputState where
  raw       : Bool
  level     : Bool
  qualifier : Option Nat
  delta     : Bool
  deriving DecidableEq, Repr

/-- A web sequencer (5.2). -/
structure Sequencer where
  state         : WebState
  breakPending  : Bool
  spliceLatched : Bool
  spliceTimer   : Timer
  spliceTime    : Nat
  trip          : Bool
  settled       : Bool
  releaseTimer  : Timer
  deriving DecidableEq, Repr

/-- The web unit (chapter 5). -/
structure WebUnit where
  breakU       : InputState
  breakL       : InputState
  spliceU      : InputState
  spliceL      : InputState
  estopLine    : InputState
  upper        : Sequencer
  lower        : Sequencer
  window       : Nat
  releaseDelay : Nat
  webCount     : Nat
  qualTime     : Nat
  resultU      : WebResult
  resultL      : WebResult
  command      : Word
  deriving DecidableEq, Repr

/-- The mode unit (6.1). -/
structure ModeUnit where
  mode          : Mode
  causeLiveness : Bool
  causeEstop    : Bool
  livenessTimer : Timer
  /-- SAFE was entered for ESTOP while the liveness timer ran, in this millisecond: an expiry taken
  together with that entry is still taken (R131, R142) -/
  livenessMet   : Bool
  /-- a liveness write of this millisecond restarted the timer while it ran: an expiry that comes
  together with that write, and after it, is none (R142; log 2) -/
  livenessRenewed : Bool
  pulseSeen     : Bool
  estop         : Bool
  period        : Nat
  faultAction   : FaultAction
  recovery      : RecoveryMethod
  dryhold       : Bool
  livenessWord  : Word
  deriving DecidableEq, Repr

/-- A profile as read and checked: the header fields and the tables (R145). -/
structure Profile where
  tag          : Word
  webCount     : Nat
  entries      : List ChannelEntry
  curves       : List (List Breakpoint)
  links        : List Link
  tick         : Nat
  gate         : Nat
  ppmA         : Nat
  ppmB         : Nat
  primary      : Source
  silence      : Nat
  hysteresis   : Nat
  period       : Nat
  faultAction  : FaultAction
  recovery     : RecoveryMethod
  window       : Nat
  qualTime     : Nat
  releaseDelay : Nat
  gapTimeout   : Nat
  threshold    : Nat
  deriving DecidableEq, Repr

/-- The adoption state with what each state holds (7.0, R144): the mode argument (true for ENFORCE),
the read position and the staged words, the staged profile, the capture position and the captured
values by channel index. -/
inductive Adoption where
  | idle
  | reading (enforce : Bool) (pos : Nat) (staged : List Word)
  | checking (enforce : Bool) (staged : List Word)
  | capturing (enforce : Bool) (staged : Profile) (pos : Nat) (captured : List (Option Nat))
  deriving DecidableEq, Repr

/-- The profile unit (chapter 7). -/
structure ProfileUnit where
  adoption : Adoption
  lock     : Bool
  deriving DecidableEq, Repr

/-- The command unit (chapter 8). `left` and `abandoned` are the mode and the work that the latest RESTART
left, which its RESTARTED record names when the sequence ends (R177). -/
structure CommandUnit where
  work      : Work
  overrun   : Bool
  arg1      : Word
  result    : Word
  detail1   : Word
  detail2   : Word
  left      : Mode
  abandoned : Work
  deriving DecidableEq, Repr

/-- A record on the ring write list: its slot, its four words and how many have been written (R168,
R169). -/
structure RingRecord where
  slot  : Nat
  word0 : Word
  word1 : Word
  word2 : Word
  word3 : Word
  done  : Nat
  deriving DecidableEq, Repr

/-- An entry of the mirror list (R165); `newer` is a value handed on while the entry was granted. -/
structure MirrorEntry where
  addr    : Word
  value   : Word
  granted : Bool
  newer   : Option Word
  deriving DecidableEq, Repr

/-- The report unit (chapter 9 and 8.5). -/
structure ReportUnit where
  writeIndex : Nat
  readIndex  : Nat
  ring       : List RingRecord
  lost       : Nat
  timestamp  : Nat
  threshold  : Nat
  latches    : BitVec 8
  fresh      : BitVec 8
  mask       : Word
  ackMode    : Word
  ackWord    : Word
  attn       : Bool
  mirror     : List MirrorEntry
  tag        : Word
  deriving DecidableEq, Repr

/-- The test unit (10.2) and the straps as start-up or RESTART last read them (R166). -/
structure TestUnit where
  flags    : StoreFlags
  ranToEnd : Bool
  webs     : Bool
  qual     : Bool
  deriving DecidableEq, Repr

/-- The whole block. `freeCount` picks the next free value (log 12); `pending` is the queue of
commands that wait, oldest first. -/
structure State where
  pins      : Pins
  path      : PathUnit
  arbiter   : ArbiterUnit
  chan      : ChannelUnit
  speed     : SpeedUnit
  ramp      : RampUnit
  web       : WebUnit
  mode      : ModeUnit
  profile   : ProfileUnit
  command   : CommandUnit
  report    : ReportUnit
  test      : TestUnit
  mem       : Memory
  freeCount : Nat
  pending   : List Instr
  deriving DecidableEq, Repr

/-! ### The starting values of the units -/

/-- No channel table, no records, no links, absorbed count 0 (R19, R29, R47, R86). -/
def ChannelUnit.initial : ChannelUnit := ⟨[], [], 0⟩

/-- A source with no profile: no count, timer stopped, not pulsing (R52, R58). -/
def SourceState.initial : SourceState := ⟨0, none, true, false⟩

/-- The speed unit with no profile (R52, R58). -/
def SpeedUnit.initial : SpeedUnit where
  srcA := SourceState.initial
  srcB := SourceState.initial
  active := none
  valid := false
  reported := 0
  gateTimer := none
  curves := []
  bands := []
  gate := 0
  ppmA := 0
  ppmB := 0
  silence := 0
  hysteresis := 0

/-- Timers stopped, the queue empty, no stall (R68, R74, R82, R85). -/
def RampUnit.initial : RampUnit := ⟨none, [], none, false, 0, 0⟩

/-- An input with a negated qualified level, an idle qualifier and a clear delta flag (R94). -/
def InputState.initial (raw : Bool) : InputState := ⟨raw, false, none, false⟩

/-- The record with which every sequencer starts (R97). -/
def Sequencer.initial : Sequencer := ⟨.off, false, false, none, 0, false, false, none⟩

/-- The web unit under hardware reset; 5 ms before the QUAL strap is first read (log 13). -/
def WebUnit.initial : WebUnit where
  breakU := InputState.initial false
  breakL := InputState.initial false
  spliceU := InputState.initial false
  spliceL := InputState.initial false
  estopLine := InputState.initial false
  upper := Sequencer.initial
  lower := Sequencer.initial
  window := 0
  releaseDelay := 0
  webCount := 0
  qualTime := 5
  resultU := .none
  resultL := .none
  command := 0

/-- The mode unit under hardware reset (R123), with DRYHOLD asserted (R12). -/
def ModeUnit.initial : ModeUnit where
  mode := .unprofiled
  causeLiveness := false
  causeEstop := false
  livenessTimer := none
  livenessMet := false
  livenessRenewed := false
  pulseSeen := false
  estop := false
  period := 0
  faultAction := .freeze
  recovery := .command
  dryhold := true
  livenessWord := 0

/-- The adoption state IDLE and the lock clear (R144, R157). -/
def ProfileUnit.initial : ProfileUnit := ⟨.idle, false⟩

/-- BUSY and overrun clear, the argument copy 0 (R160 to R162), no result, no RESTART yet. -/
def CommandUnit.initial : CommandUnit := ⟨.none, false, 0, 0, 0, 0, .unprofiled, .none⟩

/-- The report unit under hardware reset (R165 to R171). -/
def ReportUnit.initial : ReportUnit where
  writeIndex := 0
  readIndex := 0
  ring := []
  lost := 0
  timestamp := 0
  threshold := 1
  latches := 0
  fresh := 0
  mask := 0
  ackMode := 0
  ackWord := 0
  attn := false
  mirror := []
  tag := 0

/-- All four fail flags set and the ran-to-end flag clear (R175). -/
def TestUnit.initial : TestUnit := ⟨⟨true, true, true, true⟩, false, false, false⟩

/-- The machine under hardware reset, RESET held (R12). -/
def State.reset : State where
  pins := ⟨true, false, false, false⟩
  path := ⟨0, none, [], 0⟩
  arbiter := ⟨.guard, none⟩
  chan := ChannelUnit.initial
  speed := SpeedUnit.initial
  ramp := RampUnit.initial
  web := WebUnit.initial
  mode := ModeUnit.initial
  profile := ProfileUnit.initial
  command := CommandUnit.initial
  report := ReportUnit.initial
  test := TestUnit.initial
  mem := []
  freeCount := 0
  pending := []

/-! ### The reasons for which a step could stop -/

/-- The faults of the block: none. The spec names no fault, trap or stop of the part (INVENTORY.md,
Faults), so nothing raises one; that is the safe side, since no claim rests on a stop. -/
inductive Fault : Type
  deriving DecidableEq, Repr

/-- The refusals. -/
inductive Refusal where
  /-- Raised by an arm of the dispatch whose command has no meaning yet; no arm is left so. Safe: the
  model stops where the hardware goes on. -/
  | notModelled (mnemonic : String)
  deriving DecidableEq, Repr

end Sys2Proof.Machine
end

