-- ==== Sys2Proof/Machine/Operands.lean ====
section
/-! DEFINITION. Fields and codes: the area of an address, the fields of the words the host writes, the
code tables of spec 11, and the small arithmetic the rules share. -/

namespace Sys2Proof

/-! ### Codes of the operand types (11.1) -/

/-- A flag as a bit of a word. -/
def bitAt (b : Bool) (n : Nat) : Nat := if b then 2 ^ n else 0

/-- The code of a tachometer source. -/
def Source.code : Source → Nat
  | .a => 0
  | .b => 1

/-- The web byte of a web's events (R167). -/
def WebId.byte : WebId → Nat
  | .upper => 1
  | .lower => 2

/-- The four fail flags in the arrangement of word 0x0043 (11.3). -/
def StoreFlags.bits (f : StoreFlags) : Nat :=
  bitAt f.channel 0 + bitAt f.curveLink 1 + bitAt f.queue 2 + bitAt f.report 3

/-- At least one group's fail flag is set (R175). -/
def StoreFlags.failed (f : StoreFlags) : Bool := f.channel || f.curveLink || f.queue || f.report

end Sys2Proof

namespace Sys2Proof.Machine

/-! ### Counters and limits -/

/-- A counter that stays at 65,535 (4.2, R179). -/
def saturate (n : Nat) : Nat := if 65535 ≤ n then 65535 else n

/-- A value limited to a range (R33). -/
def limit (lo hi v : Nat) : Nat := if v < lo then lo else if hi < v then hi else v

/-! ### Addresses -/

/-- The seven areas of the memory map (1.1). -/
inductive Area where
  | control
  | status
  | ring
  | guard
  | general
  | output
  | input
  deriving DecidableEq, Repr

/-- The area of a word address (R1). -/
def areaOf (addr : Word) : Area :=
  let a := addr.toNat
  if a ≤ 0x003F then .control
  else if a ≤ 0x00FF then .status
  else if a ≤ 0x01FF then .ring
  else if a ≤ 0x06FF then .guard
  else if a ≤ 0x0FFF then .general
  else if a ≤ 0x7FFF then .output
  else .input

/-- The address of word k of a ring record (R167). -/
def ringAddr (slot k : Nat) : Word := wordOf (0x0100 + 4 * slot + k)

/-- The address of a channel state word (R49). -/
def chanWordAddr (i : Nat) : Word := wordOf (0x0080 + i)

/-- The address of a curve band word (R62). -/
def bandWordAddr (c : Nat) : Word := wordOf (0x0060 + c)

/-- The address of a web state word (R99). -/
def webWordAddr : WebId → Word
  | .upper => 0x0046#16
  | .lower => 0x0047#16

/-! ### Fields of the words the host writes -/

/-- A web's field of the web command word; bits 3 and 7 to 15 are ignored (11.2, R178). -/
def webField (w : WebId) (v : Word) : Nat :=
  match w with
  | .upper => v.toNat % 8
  | .lower => v.toNat / 16 % 8

/-- Bit n of a word. -/
def bitOf (w : Word) (n : Nat) : Bool := w.toNat / 2 ^ n % 2 == 1

/-- The owner field of a channel entry's flag word, bits 0 to 1 (11.5). -/
def ownerField (flags : Word) : Option Owner :=
  match flags.toNat % 4 with
  | 0 => some .upper
  | 1 => some .lower
  | 2 => some .shared
  | _ => none

/-- The kind field of a channel entry's flag word, bits 2 to 4 (11.5). -/
def kindField (flags : Word) : Option Kind :=
  match flags.toNat / 4 % 8 with
  | 0 => some .burner
  | 1 => some .damper
  | 2 => some .fan
  | 3 => some .chillValve
  | 4 => some .rollTrim
  | 5 => some .other
  | _ => none

/-- The curve field of a channel entry's flag word, bits 8 to 11 (11.5). -/
def curveField (flags : Word) : Nat := flags.toNat / 256 % 16

/-- The bits of a channel entry's flag word that no field claims, 7 and 12 to 15, are 0 (11.5). -/
def entryBitsClear (flags : Word) : Bool := !bitOf flags 7 && flags.toNat / 4096 == 0

/-- The channel entry of eight words (11.5); its fields are those of a checked entry. -/
def entryOfWords (w : Nat → Word) : ChannelEntry where
  addr := w 0
  owner := (ownerField (w 1)).getD .shared
  kind := (kindField (w 1)).getD .other
  enabled := bitOf (w 1) 5
  pinAtOnce := bitOf (w 1) 6
  curve := curveField (w 1)
  slewUp := (w 2).toNat
  slewDown := (w 3).toNat
  safeValue := (w 4).toNat
  breakValue := (w 5).toNat
  threadingCap := (w 6).toNat

/-! ### Codes (11.1) -/

def Mode.code : Mode → Nat
  | .unprofiled => 0
  | .observe => 1
  | .enforce => 2
  | .frozen => 3
  | .safe => 4

def WebState.code : WebState → Nat
  | .off => 0
  | .threading => 1
  | .running => 2
  | .splicing => 3
  | .broken => 4

def Governing.code : Governing → Nat
  | .off => 0
  | .threading => 1
  | .running => 2
  | .broken => 3

def WebResult.code : WebResult → Nat
  | .none => 0
  | .done => 1
  | .wrongState => 2
  | .breakActive => 3
  | .wrongMode => 4
  | .noWeb => 5
  | .badCode => 6

def CommandResult.code : CommandResult → Nat
  | .none => 0
  | .pending => 1
  | .done => 2
  | .badCode => 3
  | .badArgument => 4
  | .wrongMode => 5
  | .websActive => 6
  | .locked => 7
  | .selfTestFailed => 8
  | .rejected => 9
  | .causePresent => 10
  | .notPermitted => 11

def RejectReason.code : RejectReason → Nat
  | .checkSum => 1
  | .format => 2
  | .count => 3
  | .timingField => 4
  | .channelAddress => 5
  | .channelDuplicate => 6
  | .channelOwner => 7
  | .channelCurve => 8
  | .channelValue => 9
  | .channelWord => 10
  | .curveOrder => 11
  | .curveValue => 12
  | .linkIndex => 13
  | .linkChain => 14

/-- The reasons of an ABSORB NOTE (R47, 11.1). -/
inductive AbsorbReason where
  | follower
  | pinned
  | frozen
  | safe
  deriving DecidableEq, Repr

def AbsorbReason.code : AbsorbReason → Nat
  | .follower => 1
  | .pinned => 2
  | .frozen => 3
  | .safe => 4

def EventKind.code : EventKind → Nat
  | .breakTaken => 0x01
  | .breakDeferred => 0x02
  | .spliceStart => 0x03
  | .spliceEnd => 0x04
  | .spliceTransient => 0x05
  | .webState => 0x06
  | .tripReleased => 0x07
  | .bandChange => 0x10
  | .speedSourceSwitch => 0x11
  | .speedUnknown => 0x12
  | .speedRegained => 0x13
  | .clampNote => 0x20
  | .absorbNote => 0x21
  | .range => 0x22
  | .livenessExpired => 0x30
  | .estopAsserted => 0x31
  | .estopReleased => 0x32
  | .safeStandEntered => 0x33
  | .recovered => 0x34
  | .scanStall => 0x35
  | .scanStallCleared => 0x36
  | .profileAdopted => 0x40
  | .profileRejected => 0x41
  | .profileDiscarded => 0x42
  | .modeChange => 0x43
  | .selfTestDone => 0x50
  | .restarted => 0x51

/-- The bit of a cause in the attention summary, the mask and the acknowledge word (11.1). -/
def Cause.bit : Cause → BitVec 8
  | .events => 0x01#8
  | .command => 0x02#8
  | .webBreak => 0x04#8
  | .liveness => 0x08#8
  | .estop => 0x10#8
  | .stall => 0x20#8
  | .speed => 0x40#8
  | .profile => 0x80#8

/-- The web byte of a channel's events (R21). -/
def Owner.byte : Owner → Nat
  | .upper => 1
  | .lower => 2
  | .shared => 0

def Governing.isPinned : Governing → Bool
  | .off | .broken => true
  | .threading | .running => false

/-- The kinds in kind order (R22). -/
def kindOrder : List Kind := [.burner, .damper, .fan, .chillValve, .rollTrim, .other]

end Sys2Proof.Machine
end

