-- ==== Sys2Proof/Machine/Flags.lean ====
section
/-! DEFINITION. What the state shows: the conditions read from several units and the contents of every
status word (spec 11.3). -/

namespace Sys2Proof.Machine

/-! ### Conditions -/

/-- BUSY (R161). -/
def State.busy (s : State) : Bool := decide (s.command.work ≠ .none)

/-- A profile is active: the mode is not UNPROFILED (R123). -/
def State.profiled (s : State) : Bool := decide (s.mode.mode ≠ .unprofiled)

/-- The qualifiers watch their lines: not while RESET is held, in start-up or in RESTART (R94). -/
def State.watching (s : State) : Bool :=
  !s.pins.resetHeld && decide (s.command.work ≠ .startUp) && decide (s.command.work ≠ .restart)

/-- The sequencer of a web. -/
def State.seq (s : State) : WebId → Sequencer
  | .upper => s.web.upper
  | .lower => s.web.lower

/-- A qualified input. -/
def WebUnit.input (u : WebUnit) : InputLine → InputState
  | .breakU => u.breakU
  | .breakL => u.breakL
  | .spliceU => u.spliceU
  | .spliceL => u.spliceL
  | .estop => u.estopLine

def breakLineOf : WebId → InputLine
  | .upper => .breakU
  | .lower => .breakL

def spliceLineOf : WebId → InputLine
  | .upper => .spliceU
  | .lower => .spliceL

/-- The web exists (R97). -/
def State.webExists (s : State) : WebId → Bool
  | .upper => s.profiled
  | .lower => s.profiled && s.test.webs && decide (s.web.webCount = 2)

/-- The governing state a web's state gives its own channels (R30). -/
def WebState.governs : WebState → Governing
  | .off => .off
  | .threading => .threading
  | .running | .splicing => .running
  | .broken => .broken

/-- The governing state of a SHARED channel (R31). -/
def sharedGoverning (upper lower : WebState) : Governing :=
  if upper = .off ∧ lower = .off then .off
  else if upper.governs = .running ∨ lower.governs = .running then .running
  else if upper = .threading ∨ lower = .threading then .threading
  else .broken

/-- The governing state of a channel by its owner (R30, R31). -/
def State.governing (s : State) : Owner → Governing
  | .upper => s.web.upper.state.governs
  | .lower => s.web.lower.state.governs
  | .shared => sharedGoverning s.web.upper.state s.web.lower.state

/-- The queue's entry for a channel: its pending item (R28). -/
def pendingOf (i : Nat) (q : List QueueEntry) : Option QueueEntry :=
  q.find? (fun e => decide (e.channel = i))

/-- The level that DRYHOLD is to have (R143). -/
def State.dryholdLevel (s : State) : Bool :=
  s.pins.resetHeld || decide (s.mode.mode = .unprofiled) || decide (s.mode.mode = .frozen)
    || decide (s.mode.mode = .safe) || s.mode.estop || s.test.flags.failed || s.ramp.stallFlag

/-- The level that ATTN is to have (R171). -/
def ReportUnit.attnLevel (r : ReportUnit) : Bool :=
  decide (r.latches &&& r.mask.truncate 8 ≠ 0)

/-- The unread count (R168). -/
def ReportUnit.unread (r : ReportUnit) : Nat := (r.writeIndex + 64 - r.readIndex) % 64

/-! ### Status words (11.3) -/

/-- Word 0x0042: the straps as last read. -/
def State.strapWord (s : State) : Word := wordOf (bitAt s.test.webs 0 + bitAt s.test.qual 1)

/-- Word 0x0043: the fail flags and the ran-to-end flag. -/
def State.testWord (s : State) : Word := wordOf (s.test.flags.bits + bitAt s.test.ranToEnd 15)

/-- Word 0x0044: mode, BUSY, profile lock, overrun. -/
def State.modeWord (s : State) : Word :=
  wordOf (s.mode.mode.code + bitAt s.busy 4 + bitAt s.profile.lock 5 + bitAt s.command.overrun 6)

/-- The safe-stand causes in the arrangement of word 0x0045, as details carry them (R179). -/
def State.causeBits (s : State) : Nat := bitAt s.mode.causeLiveness 0 + bitAt s.mode.causeEstop 1

/-- Word 0x0045: causes, pulse-seen, DRYHOLD. -/
def State.causesWord (s : State) : Word :=
  wordOf (s.causeBits + bitAt s.mode.pulseSeen 4 + bitAt s.mode.dryhold 8)

/-- Words 0x0046 and 0x0047: a web's state word (R99). -/
def State.webWord (s : State) (w : WebId) : Word :=
  let q := s.seq w
  wordOf (q.state.code + bitAt (s.webExists w) 4 + bitAt q.breakPending 5 + bitAt q.spliceLatched 6
    + bitAt q.trip 7 + bitAt q.settled 8 + bitAt q.releaseTimer.isSome 9)

/-- Word 0x0048: the web results. -/
def State.webResultWord (s : State) : Word :=
  wordOf (s.web.resultU.code + 256 * s.web.resultL.code)

/-- Word 0x004C: the reported speed. -/
def State.speedWord (s : State) : Word := wordOf s.speed.reported

/-- Word 0x004D: speed state, active source, pulsing flags (R58). -/
def State.speedStatusWord (s : State) : Word :=
  wordOf (bitAt s.speed.valid 0 + bitAt (decide (s.speed.active = some .b)) 1
    + bitAt (!s.speed.srcA.silent) 2 + bitAt (!s.speed.srcB.silent) 3)

/-- Word 0x004E: the qualified levels and the delta flags. -/
def State.inputWord (s : State) : Word :=
  let u := s.web
  wordOf (bitAt u.breakU.level 0 + bitAt u.breakL.level 1 + bitAt u.spliceU.level 2
    + bitAt u.spliceL.level 3 + bitAt u.estopLine.level 4 + bitAt u.breakU.delta 8
    + bitAt u.breakL.delta 9 + bitAt u.spliceU.delta 10 + bitAt u.spliceL.delta 11
    + bitAt u.estopLine.delta 12)

/-- Word 0x004F: the latched causes. -/
def ReportUnit.summaryWord (r : ReportUnit) : Word := r.latches.zeroExtend 16

/-- Word 0x0054: the queue depth (R81). -/
def State.depthWord (s : State) : Word := wordOf s.ramp.queue.length

/-- Word 0x0055: the stall flag. -/
def State.stallWord (s : State) : Word := wordOf (bitAt s.ramp.stallFlag 0)

/-- Word 0x0060 + c: the band index of a curve; 0 beyond the active curves (R62). -/
def State.bandWord (s : State) (c : Nat) : Word := wordOf (s.speed.bands.getD c 0)

/-- Word 0x0080 + i: the state of a channel; 0 for an index that is not a channel (R49). -/
def State.chanWord (s : State) (i : Nat) : Word :=
  match s.chan.chans[i]? with
  | none => 0
  | some c =>
    if c.cfg.enabled then
      wordOf (1 + 2 * (s.governing c.cfg.owner).code + bitAt (decide (c.applied ≠ c.target)) 3
        + bitAt (pendingOf i s.ramp.queue).isSome 4 + bitAt c.requested.isSome 5
        + bitAt c.clampNote 6 + bitAt c.absorbNote 7)
    else 0

end Sys2Proof.Machine
end

