-- ==== Sys2Proof/Machine/Ops.lean ====
section
/-! DEFINITION. The named operations that every unit shares: memory, one updater for each unit, the
mirror list, events, attention causes and the DRYHOLD line. -/

namespace Sys2Proof.Machine

/-! ### Memory -/

/-- What a word that nothing has written reads as. DESIGN CHOICE (log 9): the spec gives no contents of
the RAM at power-on. -/
def Memory.unlisted : Word := 0

/-- The canonical form: addresses strictly rising and within the space, and no entry equal to what an
unlisted address reads as. -/
abbrev Memory.wf (m : Memory) : Prop :=
  m.Pairwise (fun c d => c.1 < d.1) ∧ ∀ c ∈ m, c.2 ≠ Memory.unlisted ∧ c.1 < 65536

def Memory.readAt : Memory → Nat → Word
  | [], _ => Memory.unlisted
  | (k, v) :: m, a => if k = a then v else Memory.readAt m a

def Memory.writeAt : Memory → Nat → Word → Memory
  | [], a, v => if v = Memory.unlisted then [] else [(a, v)]
  | (k, w) :: m, a, v =>
    if a < k then if v = Memory.unlisted then (k, w) :: m else (a, v) :: (k, w) :: m
    else if a = k then if v = Memory.unlisted then m else (a, v) :: m
    else (k, w) :: Memory.writeAt m a v

/-! ### One updater for each unit -/

def State.onPins (f : Pins → Pins) (s : State) : State := { s with pins := f s.pins }
def State.onPath (f : PathUnit → PathUnit) (s : State) : State := { s with path := f s.path }
def State.onArbiter (f : ArbiterUnit → ArbiterUnit) (s : State) : State :=
  { s with arbiter := f s.arbiter }
def State.onChan (f : ChannelUnit → ChannelUnit) (s : State) : State := { s with chan := f s.chan }
def State.onSpeed (f : SpeedUnit → SpeedUnit) (s : State) : State := { s with speed := f s.speed }
def State.onRamp (f : RampUnit → RampUnit) (s : State) : State := { s with ramp := f s.ramp }
def State.onWeb (f : WebUnit → WebUnit) (s : State) : State := { s with web := f s.web }
def State.onMode (f : ModeUnit → ModeUnit) (s : State) : State := { s with mode := f s.mode }
def State.onProfile (f : ProfileUnit → ProfileUnit) (s : State) : State :=
  { s with profile := f s.profile }
def State.onCommand (f : CommandUnit → CommandUnit) (s : State) : State :=
  { s with command := f s.command }
def State.onReport (f : ReportUnit → ReportUnit) (s : State) : State :=
  { s with report := f s.report }
def State.onTest (f : TestUnit → TestUnit) (s : State) : State := { s with test := f s.test }

/-- The word of memory at an address. -/
def State.readMem (s : State) (addr : Word) : Word := Memory.readAt s.mem addr.toNat

/-- A word written to memory. -/
def State.writeMem (addr value : Word) (s : State) : State :=
  { s with mem := Memory.writeAt s.mem addr.toNat value }

/-! ### The mirror list -/

/-- A new value for a word joins the mirror list: a new entry at the tail, the value of a waiting entry
in its place, or behind a granted write (R165). -/
def mirrorPut (addr value : Word) : List MirrorEntry → List MirrorEntry
  | [] => [⟨addr, value, false, none⟩]
  | e :: es =>
    if e.addr = addr then
      (if e.granted then { e with newer := some value } else { e with value := value, newer := none }) :: es
    else e :: mirrorPut addr value es

/-- A unit hands a word to the report unit (8.5). -/
def handWord (addr value : Word) (s : State) : State :=
  s.onReport fun r => { r with mirror := mirrorPut addr value r.mirror }

/-- A word is handed on if what it shows differs from what it showed in `before`. -/
def refreshWord (addr : Word) (view : State → Word) (before s : State) : State :=
  if view before = view s then s else handWord addr (view s) s

/-! ### Attention (9.2) -/

/-- The latches take a value: the summary word is handed on and ATTN derived afresh (R170, R171). -/
def setLatches (latches fresh : BitVec 8) (s : State) : State :=
  let r := { s.report with latches := latches, fresh := fresh }
  s.onReport fun _ =>
    { r with mirror := mirrorPut 0x004F r.summaryWord r.mirror, attn := r.attnLevel }

/-- An occurrence of a cause (R170). -/
def latchCause (c : Cause) (s : State) : State :=
  setLatches (s.report.latches ||| c.bit) (s.report.fresh ||| c.bit) s

/-- Latched causes are cleared by an acknowledge; nothing happens when none is (R172, R173). -/
def clearCauses (bits : BitVec 8) (s : State) : State :=
  if s.report.latches &&& bits = 0 then s
  else setLatches (s.report.latches &&& ~~~bits) s.report.fresh s

/-! ### Events (9.1) -/

/-- Word 0 of a record (11.4). -/
def eventWord (kind : EventKind) (web : Nat) : Word := wordOf (kind.code + 256 * web)

/-- The records of one event, each with details A and B, given the slots that follow one another. -/
def ringRecords (head stamp : Word) : Nat → List (Word × Word) → List RingRecord
  | _, [] => []
  | slot, (a, b) :: ds =>
    ⟨slot % 64, head, a, b, stamp, 0⟩ :: ringRecords head stamp (slot + 1) ds

/-- An event of one or more records is appended whole, or dropped whole and counted (R168). -/
def appendEvent (head : Word) (details : List (Word × Word)) (s : State) : State :=
  let r := s.report
  if r.unread + r.ring.length + details.length ≤ 63 then
    s.onReport fun r =>
      { r with ring := r.ring ++
          ringRecords head (wordOf r.timestamp) (r.writeIndex + r.ring.length) details }
  else
    let lost := saturate (r.lost + details.length)
    handWord 0x0051 (wordOf lost) (s.onReport fun r => { r with lost := lost })

/-- An event of one record (R167). -/
def recordEvent (kind : EventKind) (web detailA detailB : Nat) (s : State) : State :=
  appendEvent (eventWord kind web) [(wordOf detailA, wordOf detailB)] s

/-- A CLAMP NOTE, which is a pair of records (R167). -/
def recordClampNote (owner : Owner) (channel : Nat) (observe : Bool) (host target : Nat)
    (s : State) : State :=
  appendEvent (eventWord .clampNote owner.byte)
    [(wordOf (channel + bitAt observe 15), wordOf host), (wordOf (channel + 2 ^ 14), wordOf target)] s

/-! ### Unit updates that show in a status word -/

/-- The mode unit changes; words 0x0044 and 0x0045 follow (R123). -/
def updMode (f : ModeUnit → ModeUnit) (s : State) : State :=
  refreshWord 0x0045 State.causesWord s (refreshWord 0x0044 State.modeWord s (s.onMode f))

/-- The command unit changes; word 0x0044 follows (R161, R162). -/
def updCommand (f : CommandUnit → CommandUnit) (s : State) : State :=
  refreshWord 0x0044 State.modeWord s (s.onCommand f)

/-- The profile unit changes; word 0x0044 follows (R157). -/
def updProfile (f : ProfileUnit → ProfileUnit) (s : State) : State :=
  refreshWord 0x0044 State.modeWord s (s.onProfile f)

/-- DRYHOLD is derived afresh, and its word follows (R143). -/
def deriveDryhold (s : State) : State :=
  updMode (fun m => { m with dryhold := s.dryholdLevel }) s

/-! ### Command results (8.3) -/

/-- The three result words take a result and are handed on, whatever they held (R163). A command code
above 255 is shown as 255 (R179). -/
def writeResult (code : Nat) (res : CommandResult) (detail1 detail2 : Nat) (s : State) : State :=
  let s := s.onCommand fun c =>
    { c with
      result := wordOf (res.code + 256 * Nat.min code 255)
      detail1 := wordOf detail1
      detail2 := wordOf detail2 }
  handWord 0x004B s.command.detail2 (handWord 0x004A s.command.detail1
    (handWord 0x0049 s.command.result s))

/-- A command is answered: its result is written and COMMAND is latched (R163). -/
def answer (code : Nat) (res : CommandResult) (detail1 detail2 : Nat) (s : State) : State :=
  latchCause .command (writeResult code res detail1 detail2 s)

/-- The taking of a command has cleared the overrun flag: word 0x0044 follows if it was set (R162). -/
def showOverrun (cleared : Bool) (s : State) : State :=
  if cleared then handWord 0x0044 s.modeWord s else s

/-! ### The guard's accesses whose work is gone -/

/-- A guard access on the port whose work has been emptied or abandoned (R13, R79, R155). -/
def PortAccess.orphan : PortAccess → PortAccess
  | .host => .host
  | .imposed i a v _ => .imposed i a v false
  | .ring a v _ => .ring a v false
  | .mirror a v _ => .mirror a v false
  | .adoptionRead a _ => .adoptionRead a false
  | .captureRead i a _ => .captureRead i a false

/-- An imposed write on the port whose channel's record is gone (R79). -/
def PortAccess.orphanImposed : PortAccess → PortAccess
  | .imposed i a v _ => .imposed i a v false
  | p => p

end Sys2Proof.Machine
end

