-- ==== Sys2Proof/Machine/Ramp.lean ====
section
/-! DEFINITION. The impose queue and the scan stall (spec 04, sections 4.2 and 4.3). -/

namespace Sys2Proof.Machine

/-- A channel's state word is handed on if it differs from what it was in `before` (R49). -/
def refreshChan (i : Nat) (before s : State) : State :=
  refreshWord (chanWordAddr i) (fun t => t.chanWord i) before s

/-- The depth word is handed on (R81). -/
def handDepth (s : State) : State := handWord 0x0054 s.depthWord s

/-- The stall flag takes a value; its word and DRYHOLD follow (R83, R84). -/
def setStallFlag (b : Bool) (s : State) : State :=
  refreshWord 0x0055 State.stallWord s (s.onRamp fun u => { u with stallFlag := b })

/-- The queue has become empty: the scan-stall timer stops, and a stall that was set clears with its
event, whose detail A is 0 for a drain and 1 for a removal or an emptying (R82, R84). -/
def queueEmptied (detail : Nat) (s : State) : State :=
  let s := s.onRamp fun u => { u with stallTimer := none }
  if s.ramp.stallFlag then
    deriveDryhold (recordEvent .scanStallCleared 0 detail 0 (setStallFlag false s))
  else s

/-- What follows if the queue is now empty (R76, R77). -/
def ifEmptied (detail : Nat) (s : State) : State :=
  if s.ramp.queue = [] then queueEmptied detail s else s

/-- A channel without an entry joins the tail; a join to an empty queue starts the scan-stall timer
(R75, R82). `pin` says that the value is a pinned one (R71). -/
def joinQueue (i value : Nat) (pin : Bool) (s : State) : State :=
  handDepth <| refreshChan i s <| s.onRamp fun u =>
    { u with
      queue := u.queue ++ [⟨i, value, false, pin⟩]
      stallTimer := if u.queue = [] then some u.gapTimeout else u.stallTimer }

/-- The entry of a channel takes a value in its place (R75). -/
def replaceEntry (i value : Nat) (pin : Bool) (q : List QueueEntry) : List QueueEntry :=
  q.map fun e => if e.channel = i then { e with value := value, pin := pin } else e

/-- A value is queued for a channel: in the place of its entry, or at the tail; a granted entry is left
untouched (R34, R70, R75). -/
def putEntry (i value : Nat) (pin : Bool) (s : State) : State :=
  match pendingOf i s.ramp.queue with
  | none => joinQueue i value pin s
  | some e =>
    if e.granted then s else s.onRamp fun u => { u with queue := replaceEntry i value pin u.queue }

/-- The queue without a channel's entry. -/
def dropEntry (i : Nat) (q : List QueueEntry) : List QueueEntry :=
  q.filter fun e => decide (e.channel ≠ i)

/-- A channel's entry leaves the queue: its pending flag clears and the depth is handed on (R76, R77). -/
def leaveQueue (i : Nat) (s : State) : State :=
  handDepth <| refreshChan i s <| s.onRamp fun u => { u with queue := dropEntry i u.queue }

/-- An entry not yet granted is removed; a granted one is not taken out (R76). -/
def removeEntry (i : Nat) (s : State) : State :=
  match pendingOf i s.ramp.queue with
  | none => s
  | some e => if e.granted then s else ifEmptied 1 (leaveQueue i s)

/-- The queue is emptied without writing (R79). An entry already granted lives on in the port alone
(log 15). -/
def emptyQueue (s : State) : State :=
  if s.ramp.queue = [] then s
  else
    let t := s.onRamp fun u => { u with queue := [] }
    queueEmptied 1 <| handDepth <|
      s.ramp.queue.foldl (fun t e => refreshChan e.channel s t) t

end Sys2Proof.Machine
end

