-- ==== Sys2Proof/Machine/Channels.lean ====
section
/-! DEFINITION. The channel unit: targets, re-aiming, pin batches, ramp steps, follower links, settling and
the ruling on a host write (spec 02 and 04, 5.6 of spec 05). -/

namespace Sys2Proof.Machine

/-! ### Records -/

/-- The entry and record of a channel index that is a channel: one that is enabled (R20). -/
def State.chanAt (s : State) (i : Nat) : Option Channel :=
  (s.chan.chans[i]?).filter (fun c => c.cfg.enabled)

/-- What is done to a channel, if the index is one. -/
def withChan (i : Nat) (f : Channel → State → State) (s : State) : State :=
  match s.chanAt i with
  | none => s
  | some c => f c s

/-- A channel's record changes; its state word follows (R49). -/
def updChan (i : Nat) (f : Channel → Channel) (s : State) : State :=
  refreshChan i s (s.onChan fun u => { u with chans := u.chans.modify i f })

/-- The channel indices, lowest first. -/
def State.channels (s : State) : List Nat :=
  (List.range s.chan.chans.length).filter fun i => (s.chanAt i).isSome

/-- An operation on each channel of a list, in its order. -/
def forEach (ids : List Nat) (f : Nat → State → State) (s : State) : State :=
  ids.foldl (fun s i => f i s) s

/-- The channels of a list whose entry and record meet a condition. -/
def State.select (s : State) (p : Nat → Channel → Bool) (ids : List Nat) : List Nat :=
  ids.filter fun i => ((s.chanAt i).map (p i)).getD false

/-- The governing state of a channel (R30, R31). -/
def State.gov (s : State) (c : Channel) : Governing := s.governing c.cfg.owner

/-- A ramp tick, a re-aim or a pin may queue: the mode is ENFORCE or FROZEN (R34, R35). -/
def State.queues (s : State) : Bool := decide (s.mode.mode = .enforce) || decide (s.mode.mode = .frozen)

/-! ### The target (2.4) -/

/-- The present band of a channel's curve (R24). -/
def State.bandOf (s : State) (c : Channel) : Breakpoint :=
  (s.speed.curves.getD c.cfg.curve []).getD (s.speed.bands.getD c.cfg.curve 0) ⟨0, 0, 0⟩

/-- The base of a target: the requested value, or the applied value when it is absent (R33). -/
def Channel.base (c : Channel) : Nat := c.requested.getD c.applied

/-- The target by governing state in ENFORCE and OBSERVE (R33). -/
def tableTarget (g : Governing) (b : Breakpoint) (c : Channel) : Nat :=
  match g with
  | .off => c.cfg.safeValue
  | .broken => c.cfg.breakValue
  | .running => limit b.min b.max c.base
  | .threading =>
    let hi := Nat.min b.max c.cfg.threadingCap
    limit (Nat.min b.min hi) hi c.base

/-- The target of a channel in the present mode (R33); with no profile a record keeps what it has. -/
def State.targetOf (s : State) (c : Channel) : Nat :=
  match s.mode.mode with
  | .unprofiled => c.target
  | .observe | .enforce => tableTarget (s.gov c) (s.bandOf c) c
  | .frozen => if (s.gov c).isPinned then tableTarget (s.gov c) (s.bandOf c) c else c.applied
  | .safe => c.cfg.safeValue

/-- The target is computed afresh (R34), without re-aiming. -/
def setTarget (i : Nat) : State → State :=
  withChan i fun c s => updChan i (fun d => { d with target := s.targetOf c }) s

/-! ### Movement (R23, R70) -/

/-- The slew field in the direction of the target (R23). -/
def Channel.slew (c : Channel) : Nat :=
  if c.applied < c.target then c.cfg.slewUp else c.cfg.slewDown

/-- Unlimited in the direction of the target (R23). -/
def Channel.unlimited (c : Channel) : Bool := decide (c.slew = 0)

/-- The applied value moved toward the target by the smaller of the distance and the slew (R70). -/
def Channel.stepValue (c : Channel) : Nat :=
  if c.applied < c.target then c.applied + Nat.min (c.target - c.applied) c.slew
  else c.applied - Nat.min (c.applied - c.target) c.slew

/-- The entry of a channel holds its target, as a pin placed it there (R70). -/
def State.pinWaits (s : State) (i : Nat) (c : Channel) : Bool :=
  (pendingOf i s.ramp.queue).any fun e => e.pin && decide (e.value = c.target)

/-- The channel moves whole: in SAFE, unlimited, or pinned at once by an entry that already holds its
target (R70). -/
def State.movesWhole (s : State) (i : Nat) (c : Channel) : Bool :=
  decide (s.mode.mode = .safe) || c.unlimited ||
    (c.cfg.pinAtOnce && (s.gov c).isPinned && s.pinWaits i c)

/-- The value that moves the channel: its target if it moves whole, else its slew step (R70). -/
def State.moveValue (s : State) (i : Nat) (c : Channel) : Nat :=
  if s.movesWhole i c then c.target else c.stepValue

/-- The entry of a channel has been granted the port (R74). -/
def State.entryGranted (s : State) (i : Nat) : Bool :=
  ((pendingOf i s.ramp.queue).map (·.granted)).getD false

/-! ### Re-aiming (R34) -/

/-- The queue entry of a channel is made to agree with its target, for a change that is no pin. -/
def reaim (i : Nat) : State → State :=
  withChan i fun c s =>
    if !s.queues || c.inFlight || s.entryGranted i then s
    else if c.target = c.applied then removeEntry i s
    else if c.unlimited then putEntry i c.target false s
    else if (pendingOf i s.ramp.queue).isSome then putEntry i c.stepValue false s
    else s

/-- The target is computed afresh, and a new target re-aims the channel (R34). -/
def retarget (i : Nat) : State → State :=
  withChan i fun c s => if s.targetOf c = c.target then s else reaim i (setTarget i s)

/-! ### Pins (R35, R72) -/

/-- A pin queues the channel's target at once (R35). -/
def State.pinsAtOnce (s : State) (c : Channel) : Bool :=
  s.queues && (s.gov c).isPinned && decide (c.target ≠ c.applied) && (c.cfg.pinAtOnce || c.unlimited)

/-- The channel's entry holds the port or its host write is in flight: a request to queue it is answered
when that completes (R27, R73). -/
def State.held (s : State) (i : Nat) (c : Channel) : Bool := c.inFlight || s.entryGranted i

/-- A channel of a batch that is queued keeps its place and takes its value; a held one is not touched
(R72, R73, R27). -/
def batchInPlace (pin : Bool) (i : Nat) : State → State :=
  withChan i fun c s =>
    if s.held i c then s
    else if (pendingOf i s.ramp.queue).isSome then putEntry i c.target pin s
    else s

/-- The channels of a batch in kind order, ties by index (R22). -/
def State.inKindOrder (s : State) (ids : List Nat) : List Nat :=
  kindOrder.flatMap fun k => s.select (fun _ c => decide (c.cfg.kind = k)) ids

/-- A channel's target is queued. -/
def queueTarget (pin : Bool) (i : Nat) : State → State := withChan i fun c s => putEntry i c.target pin s

/-- The impose queue takes a batch as one claim (R72). `pin` says that a pin gathered it: a change of webs,
an adoption or entry into SAFE, and not entry into ENFORCE (R127). -/
def applyBatch (pin : Bool) (ids : List Nat) (s : State) : State :=
  let joiners := s.select (fun i c => !c.inFlight && (pendingOf i s.ramp.queue).isNone) ids
  forEach (s.inKindOrder joiners) (queueTarget pin) (forEach ids (batchInPlace pin) s)

/-! ### Settling (5.6 of spec 05) -/

/-- A sequencer's record changes; the web's state word follows (R99). -/
def WebUnit.onSeq (w : WebId) (f : Sequencer → Sequencer) (u : WebUnit) : WebUnit :=
  match w with
  | .upper => { u with upper := f u.upper }
  | .lower => { u with lower := f u.lower }

def updSeq (w : WebId) (f : Sequencer → Sequencer) (s : State) : State :=
  refreshWord (webWordAddr w) (fun t => t.webWord w) s (s.onWeb (WebUnit.onSeq w f))

/-- The owner of a web's own channels. -/
def ownerOf : WebId → Owner
  | .upper => .upper
  | .lower => .lower

/-- The counted channels of a web (R115). -/
def State.counted (s : State) (w : WebId) : List Channel :=
  s.chan.chans.filter fun c => c.cfg.enabled && decide ((s.seq w).state = .broken) &&
    decide (s.gov c = .broken) && (decide (c.cfg.owner = ownerOf w) || decide (c.cfg.owner = .shared))

/-- A counted channel is settled (R116). -/
def State.chanSettled (s : State) (c : Channel) : Bool :=
  match s.mode.mode with
  | .enforce | .frozen => decide (c.applied = c.cfg.breakValue)
  | .safe => decide (c.applied = c.cfg.safeValue)
  | .observe | .unprofiled => true

/-- A web is settled: it is broken and every counted channel is settled (R116, R117). -/
def State.webSettled (s : State) (w : WebId) : Bool :=
  decide ((s.seq w).state = .broken) && (s.counted w).all s.chanSettled

/-- The release timer follows the settled flag (R118). -/
def Sequencer.settle (delay : Nat) (b : Bool) (q : Sequencer) : Sequencer :=
  { q with
    settled := b
    releaseTimer :=
      if !b then none
      else if q.trip && decide (0 < delay) && q.releaseTimer.isNone then some delay
      else q.releaseTimer }

/-- A web's settled flag takes the condition; only a change acts (R117, R118). -/
def testWeb (w : WebId) (s : State) : State :=
  if (s.seq w).settled = s.webSettled w then s
  else updSeq w (Sequencer.settle s.web.releaseDelay (s.webSettled w)) s

/-- The settling test of both webs (R117). -/
def testSettled (s : State) : State := testWeb .lower (testWeb .upper s)

/-! ### Changes that reach the channels -/

/-- A pin that reaches a held channel is to queue it when the write under way has landed: in ENFORCE and
FROZEN, and the channel is pin at once, or unlimited toward a target that differs (R27, R34, R73; log 20). -/
def State.pinStays (s : State) (c : Channel) : Bool :=
  s.queues && (s.gov c).isPinned && (c.cfg.pinAtOnce || decide (c.target ≠ c.applied) && c.unlimited)

/-- A channel whose governing state changed takes its new target. A held one keeps whether the change is
a pin that queues it at once; one that the change pins at once waits for the batch; every other is re-aimed
where its target changed or it is pinned (R32, R34, R35). -/
def aimAtWebChange (i : Nat) : State → State :=
  withChan i fun c s =>
    let t := setTarget i s
    let d := { c with target := s.targetOf c }
    if s.held i c then updChan i (fun e => { e with pinHeld := s.pinStays d }) t
    else if s.pinsAtOnce d then t
    else if d.target = c.target && !(s.gov c).isPinned then t
    else reaim i t

/-- A change of web states reaches the channel unit (R32, R98): the governing states that changed since
`before` are shown, the targets follow, and the channels pinned at once go to the queue as one batch. -/
def websChanged (before s : State) : State :=
  let ids := s.select (fun _ c => decide (before.gov c ≠ s.gov c)) s.channels
  let s := forEach ids (fun i t => handWord (chanWordAddr i) (t.chanWord i) t) s
  let s := forEach ids aimAtWebChange s
  testSettled (applyBatch true (s.select (fun _ c => s.pinsAtOnce c) ids) s)

/-- A band change reaches the channels on the curves named, lowest index first (R64). -/
def bandsChanged (curves : List Nat) (s : State) : State :=
  forEach (s.select (fun _ c => curves.contains c.cfg.curve) s.channels) retarget s

/-- No pin waits for a write under way any more (R127, R126: the entry is no pin). -/
def dropHeldPins (s : State) : State :=
  s.onChan fun u => { u with chans := u.chans.map fun c => { c with pinHeld := false } }

/-- Entry into ENFORCE (R127): the unlimited pinned channels as one batch, then every other channel
re-aimed in index order. -/
def enforceEntry (s : State) : State :=
  let s := forEach s.channels setTarget (dropHeldPins s)
  let first := fun (_ : Nat) (c : Channel) =>
    (s.gov c).isPinned && decide (c.target ≠ c.applied) && c.unlimited
  let t := applyBatch false (s.select first s.channels) s
  testSettled (forEach (s.select (fun i c => !first i c) s.channels) reaim t)

/-- Entry into FROZEN (R132, R80): targets follow, and the held channels' entries are removed. -/
def frozenEntry (s : State) : State :=
  let s := forEach s.channels setTarget s
  testSettled (forEach (s.select (fun _ c => !(s.gov c).isPinned) s.channels) removeEntry s)

/-- Entry into SAFE (R135, R72): every target becomes the safe value, and every channel away from it
goes to the queue as one batch. -/
def safeEntry (s : State) : State :=
  let s := forEach s.channels setTarget s
  let t := forEach (s.select (fun _ c => decide (c.target = c.applied)) s.channels) removeEntry s
  testSettled (applyBatch true
    (t.select (fun _ c => decide (c.target ≠ c.applied) && !c.inFlight) t.channels) t)

/-- Entry into OBSERVE (R126): the queue is emptied and targets follow. -/
def observeEntry (s : State) : State :=
  let s := dropHeldPins (emptyQueue s)
  testSettled (forEach s.channels setTarget s)

/-- The pin of an adoption that completes into ENFORCE (R154). -/
def adoptionPin (s : State) : State :=
  applyBatch true (s.select (fun _ c => s.pinsAtOnce c) s.channels) s

/-! ### Follower links (4.4) -/

/-- The leader's applied value plus the offset, limited to 0 to 10,000 (R87, R91). -/
def derivedRequest (applied : Nat) (offset : Int) : Nat :=
  limit 0 10000 (Int.toNat (applied + offset))

/-- A follower takes the request derived from its leader and is re-aimed (R87). -/
def deriveFollower (applied : Nat) (l : Link) (s : State) : State :=
  retarget l.follower
    (withChan l.follower
      (fun _ s => updChan l.follower
        (fun d => { d with requested := some (derivedRequest applied l.offset) }) s) s)

/-- The followers of a leader are derived, in link index order (R87). -/
def deriveFollowers (leader applied : Nat) (s : State) : State :=
  (s.chan.links.filter (fun l => l.enabled && decide (l.leader = leader))).foldl
    (fun s l => deriveFollower applied l s) s

/-! ### Landings -/

/-- After a landing: a channel away from its target that moves whole, or that a pin reached in the
meantime, is queued at the tail (R73, R27). -/
def catchUp (i : Nat) : State → State :=
  withChan i fun c s =>
    if c.inFlight then s
    else
      let pinned := s.queues && c.pinHeld && (s.gov c).isPinned
      let whole := decide (s.mode.mode = .safe) || (s.queues && c.unlimited) || pinned
      let t := if whole && decide (c.target ≠ c.applied) then putEntry i c.target pinned s else s
      updChan i (fun d => { d with pinHeld := false }) t

/-- The ungranted entry of a channel whose applied value changed is re-aimed in place or removed (R71). -/
def reaimInPlace (i : Nat) : State → State :=
  withChan i fun c s =>
    if s.entryGranted i || (pendingOf i s.ramp.queue).isNone then s
    else if c.target = c.applied then removeEntry i s
    else putEntry i (s.moveValue i c) (s.pinWaits i c && s.movesWhole i c) s

/-- The applied value of a channel takes the value that landed; a host write that completes ends its
flight (R26, R27, R73, R87). -/
def landValue (i value : Nat) (hostWrite : Bool) : State → State :=
  withChan i fun c s =>
    let s := updChan i
      (fun d => { d with applied := value, inFlight := d.inFlight && !hostWrite }) s
    let s := catchUp i (reaimInPlace i (setTarget i s))
    testSettled (if c.applied = value then s else deriveFollowers i value s)

/-- A plain output write that completes on a word that has become a channel word (R152). -/
def landLateWrite (i value : Nat) : State → State :=
  withChan i fun c s =>
    let s := retarget i (updChan i (fun d => { d with applied := value }) s)
    let s := reaimInPlace i s
    let s := if s.mode.mode = .safe then
        withChan i
          (fun d t => if d.target = d.applied || d.inFlight then t else putEntry i d.target false t) s
      else s
    testSettled (if c.applied = value then s else deriveFollowers i value s)

/-! ### Ramp ticks (R69, R70) -/

/-- A ramp tick passes over a channel or moves it; an entry that already holds the value stays as it is. -/
def tickChannel (i : Nat) : State → State :=
  withChan i fun c s =>
    if c.applied = c.target || s.held i c
        || (decide (s.mode.mode = .frozen) && !(s.gov c).isPinned)
        || (pendingOf i s.ramp.queue).any (fun e => decide (e.value = s.moveValue i c)) then s
    else putEntry i (s.moveValue i c) false s

/-! ### The ruling on a host write (2.5, 2.6) -/

/-- A host write is compared with the target (R46). -/
def compareNote (i value : Nat) : State → State :=
  withChan i fun c s =>
    if value = c.target then updChan i (fun d => { d with clampNote := false }) s
    else if c.clampNote then s
    else updChan i (fun d => { d with clampNote := true })
      (recordClampNote c.cfg.owner i (decide (s.mode.mode = .observe)) value c.target s)

/-- A host write is counted as absorbed; a count that changes is handed on (R47). -/
def countAbsorbed (s : State) : State :=
  let n := saturate (s.chan.absorbed + 1)
  if n = s.chan.absorbed then s
  else handWord 0x0053 (wordOf n) (s.onChan fun u => { u with absorbed := n })

/-- A host write is absorbed: counted, and noted once (R47). -/
def absorbWrite (i value : Nat) (reason : AbsorbReason) : State → State :=
  withChan i fun c s =>
    let s := countAbsorbed s
    if c.absorbNote then s
    else updChan i (fun d => { d with absorbNote := true })
      (recordEvent .absorbNote c.cfg.owner.byte (i + 256 * reason.code) value s)

/-- The request of a channel that is no follower takes the host's value, clamped to 10,000 (R25). -/
def setRequest (i value : Nat) : State → State :=
  withChan i fun c s =>
    if c.follower then s
    else setTarget i (updChan i (fun d => { d with requested := some (Nat.min value 10000) }) s)

/-- A host value above 10,000 records a RANGE event (R37). -/
def rangeEvent (i value : Nat) : State → State :=
  withChan i fun c s =>
    if 10000 < value then recordEvent .range c.cfg.owner.byte i value s else s

/-- The write is ruled to be performed: the channel has a host write in flight (R27). -/
def startFlight (i : Nat) : State → State :=
  updChan i fun d => { d with inFlight := true }

def clearAbsorb (i : Nat) : State → State :=
  updChan i fun d => { d with absorbNote := false }

/-- In OBSERVE the write is performed with the host's own value (R36). -/
def ruleObserve (i value : Nat) (s : State) : State × Option Nat :=
  (startFlight i (clearAbsorb i (compareNote i value (setRequest i value s))), some value)

/-- In ENFORCE under THREADING or RUNNING the write is performed with the target, or held for the ramp
(R40 to R42). -/
def ruleFollowed (i value : Nat) (s : State) : State × Option Nat :=
  let s := clearAbsorb i (compareNote i value (setRequest i value s))
  match s.chanAt i with
  | none => (s, none)
  | some c =>
    if c.target = c.applied || c.unlimited then (startFlight i (removeEntry i s), some c.target)
    else (reaim i s, none)

/-- The channel unit rules on a host write to a channel word: the value it is performed with, or none
when it is not performed now (R36 to R43). -/
def ruleHostWrite (i value : Nat) (s : State) : State × Option Nat :=
  match s.chanAt i with
  | none => (s, some value)
  | some c =>
    let s := rangeEvent i value s
    match s.mode.mode with
    | .unprofiled => (s, some value)
    | .observe => ruleObserve i value s
    | .enforce =>
      if c.follower then (absorbWrite i value .follower s, none)
      else if (s.gov c).isPinned then (absorbWrite i value .pinned (setRequest i value s), none)
      else ruleFollowed i value s
    | .frozen => (absorbWrite i value .frozen (setRequest i value s), none)
    | .safe => (absorbWrite i value .safe (setRequest i value s), none)

/-- The index of the channel whose word is at an address: there is one only while a profile is active
(R1, R20). -/
def State.channelAt (s : State) (addr : Word) : Option Nat :=
  if s.profiled then
    s.chan.chans.findIdx? (fun c => c.cfg.enabled && decide (c.cfg.addr = addr))
  else none

/-- CLEAR NOTES clears both notes of every channel (R48). -/
def clearNotes (s : State) : State :=
  forEach s.channels
    (fun i => updChan i fun d => { d with clampNote := false, absorbNote := false }) s

end Sys2Proof.Machine
end

