-- ==== Sys2Proof/Machine/Speed.lean ====
section
/-! DEFINITION. The speed unit: tachometer sources, gates, the speed state and band selection (spec 03),
with the meanings of TACH_PULSE, SILENCE and GATE_END. -/

namespace Sys2Proof.Machine

def Source.other : Source → Source
  | .a => .b
  | .b => .a

def SpeedUnit.src (u : SpeedUnit) : Source → SourceState
  | .a => u.srcA
  | .b => u.srcB

def SpeedUnit.onSrc (x : Source) (f : SourceState → SourceState) (u : SpeedUnit) : SpeedUnit :=
  match x with
  | .a => { u with srcA := f u.srcA }
  | .b => { u with srcB := f u.srcB }

def SpeedUnit.ppm (u : SpeedUnit) : Source → Nat
  | .a => u.ppmA
  | .b => u.ppmB

/-- The speed unit changes; the speed word and the speed status word follow (R58). -/
def updSpeed (f : SpeedUnit → SpeedUnit) (s : State) : State :=
  refreshWord 0x004D State.speedStatusWord s
    (refreshWord 0x004C State.speedWord s (s.onSpeed f))

/-- The source rule: a silent active source gives way to a source that is not silent (R53). -/
def sourceRule (s : State) : State :=
  match s.speed.active with
  | none => s
  | some x =>
    if (s.speed.src x).silent && !(s.speed.src (Source.other x)).silent then
      let s := updSpeed (fun u => { u with active := some (Source.other x) }) s
      latchCause .speed
        (recordEvent .speedSourceSwitch 0 (Source.other x).code s.speed.reported s)
    else s

/-- The band words of the curves named are handed on (R62). -/
def handBands (curves : List Nat) (s : State) : State :=
  curves.foldl (fun s c => handWord (bandWordAddr c) (s.bandWord c) s) s

/-- The indices at which two lists of band indices differ. -/
def changedBands (old new : List Nat) : List Nat :=
  (List.range old.length).filter fun c => decide (old[c]? ≠ new[c]?)

/-- Entry into UNKNOWN, in the order of R54's list: SPEED UNKNOWN is recorded before the channels are told, and
so before a SCAN STALL CLEARED of their re-aims (log 41). -/
def enterUnknown (s : State) : State :=
  let bands := s.speed.bands.map fun _ => 0
  let moved := changedBands s.speed.bands bands
  let before := s.speed.reported
  let s := updSpeed (fun u => { u with valid := false, reported := 0, bands := bands }) s
  let s := handBands moved s
  let s := latchCause .speed (recordEvent .speedUnknown 0 moved.length before s)
  bandsChanged moved s

/-! ### Gate ends -/

/-- The speed of a gate (R56). -/
def gateSpeed (count gate ppm : Nat) : Nat := Nat.min 1500 (count * 60000 / (gate * ppm))

/-- How many of the thresholds that follow the present band a speed has reached (R61, step 1). -/
def risesThrough (speed : Nat) : List Breakpoint → Nat
  | [] => 0
  | b :: bs => if b.threshold ≤ speed then risesThrough speed bs + 1 else 0

/-- The band after the falls of step 2: from band k, while the speed is below its threshold less the
hysteresis (R61). -/
def fallFrom (speed hysteresis : Nat) (curve : List Breakpoint) : Nat → Nat
  | 0 => 0
  | k + 1 =>
    if speed + hysteresis < (curve.getD (k + 1) ⟨0, 0, 0⟩).threshold then
      fallFrom speed hysteresis curve k
    else k + 1

/-- Band selection for one curve (R61). -/
def selectBand (speed hysteresis : Nat) (curve : List Breakpoint) (k : Nat) : Nat :=
  fallFrom speed hysteresis curve (k + risesThrough speed (curve.drop (k + 1)))

/-- Band selection at a gate end: one BAND CHANGE event for all the curves that moved, and the channel
unit is told (R61, R62, R64). DESIGN CHOICE (log 41): where a re-aim of the same gate end empties a stalled
queue, R62, R64 and R168 do not say whether BAND CHANGE or SCAN STALL CLEARED stands first; the model records
BAND CHANGE first. -/
def selectBands (speed : Nat) (s : State) : State :=
  let old := s.speed.bands
  let bands := List.zipWith (selectBand speed s.speed.hysteresis) s.speed.curves old
  let moved := changedBands old bands
  if moved = [] then s
  else
    let s := s.onSpeed fun u => { u with bands := bands }
    let s := handBands moved s
    bandsChanged moved (recordEvent .bandChange 0 moved.length speed s)

/-- A gate end with an active source that is not silent (R55, R56). -/
def measureGate (x : Source) (s : State) : State :=
  let speed := gateSpeed (s.speed.src x).count s.speed.gate (s.speed.ppm x)
  let regained := !s.speed.valid
  let s := updSpeed (fun u => { u with valid := true, reported := speed }) s
  let s := if regained then recordEvent .speedRegained 0 x.code speed s else s
  selectBands speed s

/-- The counts and the gate timer restart (R55). -/
def restartGate (s : State) : State :=
  s.onSpeed fun u =>
    { u with
      srcA := { u.srcA with count := 0 }
      srcB := { u.srcB with count := 0 }
      gateTimer := some u.gate }

/-! ### Meanings -/

/-- A pulse while a profile is active: counted, the silence timer restarts, and a silence ends under the
source rule (R50). A timer that ran is marked as restarted in this millisecond (R57; log 2). -/
def pulse (x : Source) (s : State) : State :=
  if s.profiled then
    let ended := (s.speed.src x).silent
    let s := updSpeed (SpeedUnit.onSrc x fun _ =>
      ⟨saturate ((s.speed.src x).count + 1), some s.speed.silence, false,
        (s.speed.src x).timer.isSome⟩) s
    if ended then sourceRule s else s
  else s

/-- TACH_PULSE (R50). -/
def execTachPulse (x : Source) (s : State) : Host.Outcome State Fault Refusal := .next (pulse x s)

/-- A source falls silent; the source rule or entry into UNKNOWN follows (R51, R53, R54). -/
def fallSilent (x : Source) (s : State) : State :=
  let s := updSpeed (SpeedUnit.onSrc x fun c => { c with timer := none, silent := true }) s
  if s.speed.active = some x && (s.speed.src (Source.other x)).silent && s.speed.valid then
    enterUnknown s
  else sourceRule s

/-- The silence timer of a source expires (R51). An expiry that comes together with a pulse taken first is
none, since the pulse has restarted the timer (R57; log 2). -/
def expireSilence (x : Source) (s : State) : State :=
  if (s.speed.src x).renewed then
    s.onSpeed (SpeedUnit.onSrc x fun c => { c with renewed := false })
  else if (s.speed.src x).timer.isSome then fallSilent x s
  else s

/-- SILENCE: the source's silence timer expires (R51). -/
def execSilence (x : Source) (s : State) : Host.Outcome State Fault Refusal :=
  .next (expireSilence x s)

/-- The gate timer expires (R55). -/
def endGate (s : State) : State :=
  match s.speed.active with
  | none => restartGate s
  | some x => restartGate (if (s.speed.src x).silent then s else measureGate x s)

/-- GATE_END: the gate timer expires (R55). -/
def execGateEnd (s : State) : Host.Outcome State Fault Refusal :=
  .next (if s.speed.gateTimer.isSome then endGate s else s)

end Sys2Proof.Machine
end

