-- ==== Sys2Proof/Machine/Webs.lean ====
section
/-! DEFINITION. The web sequencers, the web command word and the trip lines (spec 05), with the meanings of
SPLICE_WINDOW_EXPIRY and TRIP_RELEASED. -/

namespace Sys2Proof.Machine

/-- The qualified level of a web's break line. -/
def State.breakLevel (s : State) (w : WebId) : Bool := (s.web.input (breakLineOf w)).level

/-- The qualified level of a web's splice line. -/
def State.spliceLevel (s : State) (w : WebId) : Bool := (s.web.input (spliceLineOf w)).level

/-- A WEB STATE event. -/
def recordWebState (w : WebId) (old new : WebState) (s : State) : State :=
  recordEvent .webState w.byte old.code new.code s

/-! ### Splices (5.5) -/

/-- The start of a splice, by the line or at RUN (R109). -/
def startSplice (w : WebId) (atRun : Bool) (s : State) : State :=
  recordEvent .spliceStart w.byte (bitAt atRun 0) s.speed.reported <|
    updSeq w (fun q =>
      { q with
        state := .splicing
        breakPending := false
        spliceLatched := true
        spliceTimer := some s.web.window
        spliceTime := 0 }) s

/-- A break is taken, directly or at the end of a splice (R107). -/
def takeBreak (w : WebId) (afterSplice : Bool) (s : State) : State :=
  let t := updSeq w (fun q =>
    { q with state := .broken, breakPending := false, spliceTimer := none, trip := true }) s
  websChanged s <| latchCause .webBreak <|
    recordEvent .breakTaken w.byte (bitAt afterSplice 0) s.speed.reported t

/-- The web leaves SPLICING by the level of its break line (R113). -/
def leaveSplice (w : WebId) (s : State) : State :=
  if s.breakLevel w then takeBreak w true s
  else
    let t := updSeq w (fun q => { q with state := .running, breakPending := false }) s
    websChanged s <|
      if (s.seq w).breakPending then
        recordEvent .spliceTransient w.byte 0 s.speed.reported t
      else t

/-- The end of a splice by release (R111). -/
def releaseSplice (w : WebId) (s : State) : State :=
  let t := updSeq w (fun q => { q with spliceTimer := none, spliceLatched := false }) s
  leaveSplice w (recordEvent .spliceEnd w.byte 0 (s.seq w).spliceTime t)

/-- The end of a splice by expiry of its window (R112). -/
def expireSplice (w : WebId) (s : State) : State :=
  let t := updSeq w (fun q => { q with spliceTimer := none }) s
  leaveSplice w (recordEvent .spliceEnd w.byte 1 s.web.window t)

/-- SPLICE_WINDOW_EXPIRY: the splice timer of a web expires in SPLICING (R112). -/
def execSpliceWindowExpiry (w : WebId) (s : State) : Host.Outcome State Fault Refusal :=
  .next (if (s.seq w).state = .splicing ∧ (s.seq w).spliceTimer.isSome then expireSplice w s else s)

/-! ### What the qualified lines do to a web (5.4, 5.5) -/

/-- A qualified assertion of a web's break line reaches its sequencer (R106, R110). -/
def breakAsserted (w : WebId) (s : State) : State :=
  match (s.seq w).state with
  | .threading | .running => takeBreak w false s
  | .splicing =>
    recordEvent .breakDeferred w.byte (s.seq w).spliceTime s.speed.reported
      (updSeq w (fun q => { q with breakPending := true }) s)
  | .off | .broken => s

/-- A qualified assertion of a web's splice line reaches its sequencer (R109). -/
def spliceAsserted (w : WebId) (s : State) : State :=
  if (s.seq w).state = .running ∧ (s.seq w).spliceLatched = false then
    let t := startSplice w false s
    websChanged s t
  else s

/-- A qualified negation of a web's splice line reaches its sequencer (R111). -/
def spliceNegated (w : WebId) (s : State) : State :=
  if (s.seq w).state = .splicing then releaseSplice w s
  else updSeq w (fun q => { q with spliceLatched := false }) s

/-! ### The web command word (5.3) -/

/-- The state a web command starts from (R101 to R103); DISABLE starts from any. -/
def startsFrom (code : Nat) (st : WebState) : Bool :=
  match code with
  | 1 => decide (st = .off)
  | 2 => decide (st = .threading)
  | 3 => decide (st = .broken)
  | _ => true

/-- The first check that a non-zero field fails (R100). -/
def webCheck (w : WebId) (code : Nat) (s : State) : Option WebResult :=
  if !s.profiled then some .wrongMode
  else if !s.webExists w then some .noWeb
  else if code ≠ 4 ∧ (s.mode.mode = .frozen ∨ s.mode.mode = .safe) then some .wrongMode
  else if !startsFrom code (s.seq w).state then some .wrongState
  else if (code = 2 ∨ code = 3) ∧ s.breakLevel w then some .breakActive
  else none

/-- ENABLE is carried out (R101). -/
def enableWeb (w : WebId) (s : State) : State :=
  recordWebState w .off .threading (updSeq w (fun q => { q with state := .threading }) s)

/-- RUN is carried out, with a splice at once for a line already asserted (R102). -/
def runWeb (w : WebId) (s : State) : State :=
  let t := recordWebState w .threading .running (updSeq w (fun q => { q with state := .running }) s)
  if s.spliceLevel w && !(s.seq w).spliceLatched then startSplice w true t else t

/-- REARM is carried out (R103). -/
def rearmWeb (w : WebId) (s : State) : State :=
  recordWebState w .broken .threading <| updSeq w (fun q =>
    { q with state := .threading, trip := false, releaseTimer := none, settled := false }) s

/-- DISABLE is carried out; on a web that is OFF it changes nothing (R104). -/
def disableWeb (w : WebId) (s : State) : State :=
  if (s.seq w).state = .off then s
  else
    recordWebState w (s.seq w).state .off <| updSeq w (fun q =>
      { q with
        state := .off
        breakPending := false
        spliceLatched := false
        spliceTimer := none
        trip := false
        releaseTimer := none
        settled := false }) s

/-- A web command is carried out (R101 to R104). -/
def carryOutWeb (w : WebId) (code : Nat) (s : State) : State :=
  match code with
  | 1 => enableWeb w s
  | 2 => runWeb w s
  | 3 => rearmWeb w s
  | _ => disableWeb w s

/-- One field of a taken web command word: the sequencer's part and the result (R100). -/
def takeWebField (w : WebId) (code : Nat) (s : State) : State × WebResult :=
  if code = 0 then (s, .none)
  else
    match webCheck w code s with
    | some r => (s, r)
    | none => (carryOutWeb w code s, .done)

/-- Both result fields are replaced, and the word is handed on whatever it held (R100). -/
def setWebResults (upper lower : WebResult) (s : State) : State :=
  let s := s.onWeb fun u => { u with resultU := upper, resultL := lower }
  handWord 0x0048 s.webResultWord s

/-- A write to the web command word is taken (R100, R105): both sequencers first, then one web-state
change of both reaches the channel unit. DESIGN CHOICE (log 39): the spec does not say where the SPLICE
START of an upper web that RUN takes into SPLICING stands beside the lower web's WEB STATE; the model takes
the upper field whole before the lower one, so it stands before it. -/
def takeWebCommand (v : Word) (s : State) : State :=
  let s := s.onWeb fun u => { u with command := v }
  let cu := webField .upper v
  let cl := webField .lower v
  if 4 < cu ∨ 4 < cl then setWebResults .badCode .badCode s
  else
    let a := takeWebField .upper cu s
    let b := takeWebField .lower cl a.1
    setWebResults a.2 b.2 (websChanged s b.1)

/-! ### The trip lines (5.6) -/

/-- The release timer of a web expires (R119). -/
def releaseTrip (w : WebId) (s : State) : State :=
  recordEvent .tripReleased w.byte (s.counted w).length s.speed.reported
    (updSeq w (fun q => { q with trip := false, releaseTimer := none }) s)

/-- TRIP_RELEASED: a web's release timer expires (R119). -/
def execTripReleased (w : WebId) (s : State) : Host.Outcome State Fault Refusal :=
  .next (if (s.seq w).releaseTimer.isSome then releaseTrip w s else s)

end Sys2Proof.Machine
end

