-- ==== Sys2Proof/Machine/Modes.lean ====
section
/-! DEFINITION. The mode unit: mode changes, liveness, the emergency stop and RECOVER (spec 06), with the
meanings of LIVENESS_EXPIRED, RAMP_TICK and SCAN_STALL. -/

namespace Sys2Proof.Machine

/-- The liveness timer starts at P, when P is above 0 (R128). -/
def ModeUnit.startLiveness (m : ModeUnit) : Timer := if 0 < m.period then some m.period else none

/-! ### Entry into SAFE (R135) -/

/-- The mode becomes SAFE and the liveness timer stops; `met` says whether an expiry taken together with
this entry may still come (R131). -/
def becomeSafe (met : Bool) (s : State) : State :=
  safeEntry <| updMode (fun m =>
    { m with
      mode := .safe
      livenessMet := met && m.livenessTimer.isSome && !m.livenessRenewed
      livenessTimer := none
      livenessRenewed := false }) s

/-- The SAFE STAND ENTERED event (R135). -/
def recordSafeStand (left : Mode) (s : State) : State :=
  recordEvent .safeStandEntered 0 s.causeBits left.code s

/-- An ESTOP level asserted at an entry into ENFORCE takes the guard into SAFE at once (R136). -/
def estopAtEnforce (met : Bool) (s : State) : State :=
  if s.mode.estop then
    recordSafeStand .enforce (becomeSafe met (updMode (fun m => { m with causeEstop := true }) s))
  else s

/-! ### The emergency stop (6.5) -/

/-- A qualified assertion of ESTOP is taken (R134). -/
def estopAsserted (s : State) : State :=
  let old := s.mode.mode
  let s := latchCause .estop (updMode (fun m => { m with estop := true }) s)
  deriveDryhold <|
    match old with
    | .unprofiled | .observe => recordEvent .estopAsserted 0 old.code old.code s
    | .enforce | .frozen =>
      recordSafeStand old <| recordEvent .estopAsserted 0 old.code Mode.safe.code <|
        becomeSafe true (updMode (fun m => { m with causeEstop := true }) s)
    | .safe =>
      recordEvent .estopAsserted 0 old.code old.code
        (updMode (fun m => { m with causeEstop := true }) s)

/-- A qualified negation of ESTOP is taken (R137). -/
def estopNegated (s : State) : State :=
  deriveDryhold (recordEvent .estopReleased 0 s.mode.mode.code 0
    (updMode (fun m => { m with estop := false }) s))

/-! ### Liveness (6.3) -/

/-- The liveness timer restarts at P, and one that ran is marked as restarted in this millisecond (R129,
R142; log 2). -/
def ModeUnit.renewLiveness (m : ModeUnit) : ModeUnit :=
  { m with
    livenessTimer := m.startLiveness
    livenessRenewed := m.startLiveness.isSome && m.livenessTimer.isSome }

/-- A write to the liveness word is taken (R129). -/
def takeLiveness (v : Word) (s : State) : State :=
  let s := s.onMode fun m => { m with livenessWord := v }
  match s.mode.mode with
  | .observe | .enforce => s.onMode ModeUnit.renewLiveness
  | .frozen | .safe => updMode (fun m => { m with pulseSeen := true }) s
  | .unprofiled => s

/-- LIVENESS becomes a safe-stand cause (R131). -/
def addLiveness (s : State) : State :=
  latchCause .liveness (updMode (fun m =>
    { m with
      causeLiveness := true
      pulseSeen := false
      livenessTimer := none
      livenessMet := false
      livenessRenewed := false }) s)

/-- The liveness timer expires in ENFORCE (R131). -/
def expireInEnforce (s : State) : State :=
  let s := addLiveness s
  match s.mode.faultAction with
  | .freeze =>
    deriveDryhold <| recordEvent .livenessExpired 0 Mode.enforce.code Mode.frozen.code <|
      frozenEntry (updMode (fun m => { m with mode := .frozen }) s)
  | .safe =>
    deriveDryhold <| recordSafeStand .enforce <|
      recordEvent .livenessExpired 0 Mode.enforce.code Mode.safe.code (becomeSafe false s)

/-- The liveness timer expires: in OBSERVE it is recorded and restarts (R130); in ENFORCE the fault
action follows; in SAFE it counts when it was taken together with the entry (R131). An expiry that comes
together with a liveness write taken first is none, since the write has restarted the timer (R142; log 2). -/
def expireLiveness (s : State) : State :=
  if s.mode.livenessRenewed then s.onMode fun m => { m with livenessRenewed := false }
  else match s.mode.mode with
  | .observe =>
    if s.mode.livenessTimer.isSome then
      (latchCause .liveness
        (recordEvent .livenessExpired 0 Mode.observe.code Mode.observe.code s)).onMode
          fun m => { m with livenessTimer := m.startLiveness }
    else s
  | .enforce => if s.mode.livenessTimer.isSome then expireInEnforce s else s
  | .safe =>
    if s.mode.livenessMet then
      recordEvent .livenessExpired 0 Mode.safe.code Mode.safe.code (addLiveness s)
    else s
  | .frozen | .unprofiled => s

/-- LIVENESS_EXPIRED: the liveness timer expires (R131). -/
def execLivenessExpired (s : State) : Host.Outcome State Fault Refusal := .next (expireLiveness s)

/-! ### The ramp tick and the scan stall (4.1, 4.3) -/

/-- The ramp timer expires and restarts; in ENFORCE and FROZEN the moving channels move (R68, R69). -/
def rampTick (s : State) : State :=
  let s := s.onRamp fun u => { u with rampTimer := some u.tick }
  if s.queues then forEach s.channels tickChannel s else s

/-- RAMP_TICK: the ramp timer expires (R69). -/
def execRampTick (s : State) : Host.Outcome State Fault Refusal :=
  .next (if s.ramp.rampTimer.isSome then rampTick s else s)

/-- The scan-stall timer expires (R83). -/
def scanStall (s : State) : State :=
  let oldest := (s.ramp.queue.head?.map (·.channel)).getD 0
  let s := recordEvent .scanStall 0 s.ramp.queue.length oldest s
  let s := setStallFlag true (s.onRamp fun u => { u with stallTimer := none })
  deriveDryhold (latchCause .stall s)

/-- SCAN_STALL: the scan-stall timer expires (R83). -/
def execScanStall (s : State) : Host.Outcome State Fault Refusal :=
  .next (if s.ramp.stallTimer.isSome then scanStall s else s)

end Sys2Proof.Machine
end

