-- ==== Sys2Proof/Machine/Inputs.lean ====
section
/-! DEFINITION. The qualified inputs and the GAP line (spec 05, 5.1; R15, R77), with the meanings of the
qualifier rows, GAP_ASSERT and GAP_NEGATE. -/

namespace Sys2Proof.Machine

def WebUnit.onInput (l : InputLine) (f : InputState → InputState) (u : WebUnit) : WebUnit :=
  match l with
  | .breakU => { u with breakU := f u.breakU }
  | .breakL => { u with breakL := f u.breakL }
  | .spliceU => { u with spliceU := f u.spliceU }
  | .spliceL => { u with spliceL := f u.spliceL }
  | .estop => { u with estopLine := f u.estopLine }

/-- The five lines in the order of word 0x004E (11.3). -/
def inputLines : List InputLine := [.breakU, .breakL, .spliceU, .spliceL, .estop]

/-- The input word is handed on (R96). -/
def handInputs (s : State) : State := handWord 0x004E s.inputWord s

/-- A qualified change of a line goes to its owner (R96): a web's sequencer, if the web exists, or the
mode unit. -/
def reachOwner (l : InputLine) (level : Bool) (s : State) : State :=
  match l, level with
  | .breakU, true => if s.webExists .upper then breakAsserted .upper s else s
  | .breakL, true => if s.webExists .lower then breakAsserted .lower s else s
  | .breakU, false => s
  | .breakL, false => s
  | .spliceU, true => if s.webExists .upper then spliceAsserted .upper s else s
  | .spliceL, true => if s.webExists .lower then spliceAsserted .lower s else s
  | .spliceU, false => if s.webExists .upper then spliceNegated .upper s else s
  | .spliceL, false => if s.webExists .lower then spliceNegated .lower s else s
  | .estop, true => estopAsserted s
  | .estop, false => estopNegated s

/-- A line makes its qualified change to a level (R92, R95, R96). -/
def qualifiedChange (l : InputLine) (level : Bool) (s : State) : State :=
  reachOwner l level <| handInputs <|
    s.onWeb (WebUnit.onInput l fun _ => ⟨level, level, none, true⟩)

/-- A line has held a level for Q: a qualified change, if the qualifiers watch and the qualified level
is the other one (R92, R94). -/
def takeQualified (l : InputLine) (level : Bool) (s : State) : State :=
  if s.watching && decide ((s.web.input l).level ≠ level) then qualifiedChange l level s else s

/-- The qualifiers that have already held for the present Q make their change, when Q itself changed
(R93). -/
def checkQualifiers (s : State) : State :=
  inputLines.foldl (fun s l =>
    match (s.web.input l).qualifier with
    | none => s
    | some h => if s.web.qualTime ≤ h then takeQualified l (!(s.web.input l).level) s else s) s

/-- The raw level of a line, with what its qualifier makes of it (R92). -/
def InputState.follow (watching raw : Bool) (i : InputState) : InputState :=
  { i with
    raw := raw
    qualifier := if watching && decide (raw ≠ i.level) then some (i.qualifier.getD 0) else none }

/-- The qualifiers start watching their lines (R94). -/
def startQualifiers (s : State) : State :=
  s.onWeb fun u =>
    inputLines.foldl (fun u l => u.onInput l fun i => i.follow true i.raw) u

/-- QUALIFIER_START: the raw level of a line comes to differ from its qualified level, or returns to it
(R92). -/
def execQualifierStart (l : InputLine) (raw : Bool) (s : State) :
    Host.Outcome State Fault Refusal :=
  .next (s.onWeb (WebUnit.onInput l (InputState.follow s.watching raw)))

/-- BREAK_QUALIFIED_ASSERTION (R106). -/
def execBreakQualifiedAssertion (w : WebId) (s : State) : Host.Outcome State Fault Refusal :=
  .next (takeQualified (breakLineOf w) true s)

/-- BREAK_QUALIFIED_NEGATION (R108). -/
def execBreakQualifiedNegation (w : WebId) (s : State) : Host.Outcome State Fault Refusal :=
  .next (takeQualified (breakLineOf w) false s)

/-- SPLICE_QUALIFIED_ASSERTION (R109). -/
def execSpliceQualifiedAssertion (w : WebId) (s : State) : Host.Outcome State Fault Refusal :=
  .next (takeQualified (spliceLineOf w) true s)

/-- SPLICE_QUALIFIED_NEGATION (R111). -/
def execSpliceQualifiedNegation (w : WebId) (s : State) : Host.Outcome State Fault Refusal :=
  .next (takeQualified (spliceLineOf w) false s)

/-- ESTOP_QUALIFIED_ASSERTION (R134). -/
def execEstopQualifiedAssertion (s : State) : Host.Outcome State Fault Refusal :=
  .next (takeQualified .estop true s)

/-- ESTOP_QUALIFIED_NEGATION (R137). -/
def execEstopQualifiedNegation (s : State) : Host.Outcome State Fault Refusal :=
  .next (takeQualified .estop false s)

/-- GAP_ASSERT: GAP asserts, and the queue's oldest entry is offered from now on (R77). -/
def execGapAssert (s : State) : Host.Outcome State Fault Refusal :=
  .next (s.onPins fun p => { p with gap := true })

/-- GAP_NEGATE: GAP negates, and an offer not yet granted is withdrawn (R15). -/
def execGapNegate (s : State) : Host.Outcome State Fault Refusal :=
  .next (s.onPins fun p => { p with gap := false })

end Sys2Proof.Machine
end

