-- ==== Sys2Proof/Machine/Profiles.lean ====
section
/-! DEFINITION. The profile unit: the checks of a profile, adoption, DISCARD and LOCK (spec 07), with the
meanings of the adoption and capture reads. -/

namespace Sys2Proof.Machine

/-! ### The staged copy -/

/-- The word of the guard area at an address, in a staged copy that holds 0x0200 to 0x0217 and 0x0220
to 0x06F0 in address order (R147). -/
def stagedAt (ws : List Word) (addr : Nat) : Word :=
  ws.getD (if addr < 0x0218 then addr - 0x0200 else addr - 0x0208) 0

/-- A word read is dropped when it lies in 0x0218 to 0x021F, and joins the staged copy otherwise (R147). -/
def stageWord (pos : Nat) (v : Word) (ws : List Word) : List Word :=
  if 0x0218 ≤ pos ∧ pos ≤ 0x021F then ws else ws ++ [v]

def within (lo hi : Nat) (v : Word) : Bool := decide (lo ≤ v.toNat ∧ v.toNat ≤ hi)

/-- Word k of channel entry i (2.1). -/
def entryWords (w : Nat → Word) (i k : Nat) : Word := w (0x0220 + 8 * i + k)

def entryEnabled (w : Nat → Word) (i : Nat) : Bool := bitOf (entryWords w i 1) 5

def curveBase (c : Nat) : Nat := 0x0520 + 25 * c

/-- Breakpoint j of curve c (R59). -/
def breakpointAt (w : Nat → Word) (c j : Nat) : Breakpoint :=
  let a := curveBase c + 1 + 3 * j
  ⟨(w a).toNat, (w (a + 1)).toNat, (w (a + 2)).toNat⟩

/-- Word k of link l (R86). -/
def linkWord (w : Nat → Word) (l k : Nat) : Word := w (0x06B0 + 4 * l + k)

def linkEnabled (w : Nat → Word) (l : Nat) : Bool := bitOf (linkWord w l 3) 0

/-! ### The checks (R145, R148 to R151) -/

/-- The header checks in order: the word, whether it passes, and the reason if it does not (R145). -/
def headerChecks (twoWebs : Bool) (w : Nat → Word) : List (Nat × Bool × RejectReason) :=
  [ (0x0200, decide (w 0x0200 = 0x7A01#16), .format),
    (0x0202, within 1 (if twoWebs then 2 else 1) (w 0x0202), .count),
    (0x0203, within 1 96 (w 0x0203), .count),
    (0x0204, within 1 16 (w 0x0204), .count),
    (0x0205, within 0 16 (w 0x0205), .count),
    (0x0206, within 10 1000 (w 0x0206), .timingField),
    (0x0207, within 50 1000 (w 0x0207), .timingField),
    (0x0208, within 1 2000 (w 0x0208), .timingField),
    (0x0209, within 1 2000 (w 0x0209), .timingField),
    (0x020A, within 0 1 (w 0x020A), .timingField),
    (0x020B, within 100 10000 (w 0x020B) && decide ((w 0x0207).toNat ≤ (w 0x020B).toNat),
      .timingField),
    (0x020C, within 0 100 (w 0x020C), .timingField),
    (0x020D, decide (w 0x020D = 0) || within 50 30000 (w 0x020D), .timingField),
    (0x020E, within 0 1 (w 0x020E), .timingField),
    (0x020F, within 0 1 (w 0x020F), .timingField) ]
  ++
  [ (0x0210, within 100 10000 (w 0x0210), .timingField),
    (0x0211, within 1 250 (w 0x0211), .timingField),
    (0x0212, within 0 60000 (w 0x0212), .timingField),
    (0x0213, within 50 60000 (w 0x0213), .timingField),
    (0x0214, within 1 63 (w 0x0214), .timingField),
    (0x0215, decide (w 0x0215 = 0), .timingField),
    (0x0216, decide (w 0x0216 = 0), .timingField),
    (0x0217, decide (w 0x0217 = 0), .timingField) ]

/-- The first header word that fails, with its address (R148). -/
def checkHeader (twoWebs : Bool) (w : Nat → Word) : Option (RejectReason × Nat) :=
  ((headerChecks twoWebs w).find? fun c => !c.2.1).map fun c => (c.2.2, c.1)

/-- The first test that a channel entry fails (R149). -/
def entryReason (webCount curveCount : Nat) (w : Nat → Word) (i : Nat) : Option RejectReason :=
  let e := entryWords w i
  let flags := e 1
  if !within 0x1000 0x7FFF (e 0) then some .channelAddress
  else if entryEnabled w i &&
      (List.range i).any (fun j => entryEnabled w j && decide (entryWords w j 0 = e 0)) then
    some .channelDuplicate
  else if (ownerField flags).isNone || (decide (ownerField flags = some .lower) && decide (webCount = 1))
  then some .channelOwner
  else if curveCount ≤ curveField flags then some .channelCurve
  else if (kindField flags).isNone || !([2, 3, 4, 5, 6].all fun k => within 0 10000 (e k)) then
    some .channelValue
  else if !decide (e 7 = 0) || !entryBitsClear flags then some .channelWord
  else none

/-- The first test that breakpoint j of a curve fails (R150). -/
def breakpointReason (w : Nat → Word) (c j : Nat) : Option RejectReason :=
  let b := breakpointAt w c j
  let inOrder := match j with
    | 0 => decide (b.threshold = 0)
    | k + 1 => decide ((breakpointAt w c k).threshold < b.threshold)
  if !inOrder then some .curveOrder
  else if 1500 < b.threshold ∨ b.max < b.min ∨ 10000 < b.max then some .curveValue
  else none

/-- The first test that a curve fails (R150). -/
def curveReason (w : Nat → Word) (c : Nat) : Option RejectReason :=
  if !within 1 8 (w (curveBase c)) then some .curveValue
  else (List.range (w (curveBase c)).toNat).findSome? (breakpointReason w c)

/-- An enabled link fails on its own (R151). -/
def linkIndexFails (channelCount : Nat) (w : Nat → Word) (l : Nat) : Bool :=
  let leader := (linkWord w l 0).toNat
  let follower := (linkWord w l 1).toNat
  let offset := (linkWord w l 2).toNat
  decide (channelCount ≤ leader) || decide (channelCount ≤ follower)
    || !entryEnabled w leader || !entryEnabled w follower || decide (leader = follower)
    || decide (0x2711 ≤ offset ∧ offset ≤ 0xD8EF) || decide ((linkWord w l 3).toNat / 2 ≠ 0)

/-- An enabled link fails against an enabled link of lower index (R151). -/
def linkChainFails (w : Nat → Word) (l m : Nat) : Bool :=
  linkEnabled w m &&
    (decide (linkWord w l 1 = linkWord w m 1) || decide (linkWord w l 1 = linkWord w m 0)
      || decide (linkWord w l 0 = linkWord w m 1))

/-- The first test that a link fails (R151). -/
def linkReason (channelCount : Nat) (w : Nat → Word) (l : Nat) : Option RejectReason :=
  if !linkEnabled w l then none
  else if linkIndexFails channelCount w l then some .linkIndex
  else if (List.range l).any (linkChainFails w l) then some .linkChain
  else none

/-- The first of a table's entries that fails, with its index. -/
def firstFailure (count : Nat) (reason : Nat → Option RejectReason) : Option (RejectReason × Nat) :=
  (List.range count).findSome? fun i => (reason i).map fun r => (r, i)

/-- The checks of the staged copy: the reason and detail 2 of the first failure (R148). -/
def checkProfile (twoWebs : Bool) (ws : List Word) : Option (RejectReason × Nat) :=
  let sum := ws.foldl (· + ·) 0
  let w := stagedAt ws
  if sum ≠ 0 then some (.checkSum, sum.toNat)
  else
    (checkHeader twoWebs w).or <|
    (firstFailure (w 0x0203).toNat
      (entryReason (w 0x0202).toNat (w 0x0204).toNat w)).or <|
    (firstFailure (w 0x0204).toNat (curveReason w)).or <|
    firstFailure (w 0x0205).toNat (linkReason (w 0x0203).toNat w)

/-- The profile a staged copy holds (11.5). -/
def profileOf (ws : List Word) : Profile :=
  let w := stagedAt ws
  { tag := w 0x0201
    webCount := (w 0x0202).toNat
    entries := (List.range (w 0x0203).toNat).map fun i => entryOfWords (entryWords w i)
    curves := (List.range (w 0x0204).toNat).map fun c =>
      (List.range (w (curveBase c)).toNat).map (breakpointAt w c)
    links := (List.range (w 0x0205).toNat).map fun l =>
      ⟨(linkWord w l 0).toNat, (linkWord w l 1).toNat, (linkWord w l 2).toInt, linkEnabled w l⟩
    tick := (w 0x0206).toNat
    gate := (w 0x0207).toNat
    ppmA := (w 0x0208).toNat
    ppmB := (w 0x0209).toNat
    primary := if w 0x020A = 1#16 then .b else .a
    silence := (w 0x020B).toNat
    hysteresis := (w 0x020C).toNat
    period := (w 0x020D).toNat
    faultAction := if w 0x020E = 1#16 then .safe else .freeze
    recovery := if w 0x020F = 1#16 then .resetOnly else .command
    window := (w 0x0210).toNat
    qualTime := (w 0x0211).toNat
    releaseDelay := (w 0x0212).toNat
    gapTimeout := (w 0x0213).toNat
    threshold := (w 0x0214).toNat }

/-! ### Completion of an adoption (R154) -/

/-- The record of a channel at the completion of ADOPT (R29): the webs are OFF, so the target is the
safe value. -/
def startChannel (links : List Link) (i : Nat) (e : ChannelEntry) (captured : Option Nat) : Channel where
  cfg := e
  requested := none
  applied := captured.getD 0
  target := e.safeValue
  inFlight := false
  clampNote := false
  absorbNote := false
  follower := links.any fun l => l.enabled && decide (l.follower = i)
  pinHeld := false

/-- The active table and records of a staged profile. -/
def startChannels (p : Profile) (captured : List (Option Nat)) : List Channel :=
  p.entries.mapIdx fun i e => startChannel p.links i e (captured.getD i none)

/-- The speed unit at the completion of ADOPT (R52). -/
def startSpeed (p : Profile) : SpeedUnit where
  srcA := SourceState.initial
  srcB := SourceState.initial
  active := some p.primary
  valid := false
  reported := 0
  gateTimer := some p.gate
  curves := p.curves
  bands := p.curves.map fun _ => 0
  gate := p.gate
  ppmA := p.ppmA
  ppmB := p.ppmB
  silence := p.silence
  hysteresis := p.hysteresis

/-- The mode that an adoption ends in (R123). -/
def adoptMode (enforce : Bool) : Mode := if enforce then .enforce else .observe

/-- The mode unit takes its part of the profile (R123). -/
def ModeUnit.adopt (p : Profile) (enforce : Bool) (m : ModeUnit) : ModeUnit :=
  { m with
    mode := adoptMode enforce
    causeLiveness := false
    causeEstop := false
    livenessTimer := if 0 < p.period then some p.period else none
    livenessMet := false
    livenessRenewed := false
    pulseSeen := false
    period := p.period
    faultAction := p.faultAction
    recovery := p.recovery }

/-- Each unit takes its part of the profile (R154). -/
def takeProfile (p : Profile) (enforce : Bool) (captured : List (Option Nat)) (s : State) : State :=
  let s := s.onChan fun u => { u with chans := startChannels p captured, links := p.links }
  let s := s.onSpeed fun _ => startSpeed p
  let s := s.onRamp fun _ => ⟨some p.tick, [], none, false, p.tick, p.gapTimeout⟩
  let s := s.onWeb fun u =>
    { u with
      upper := Sequencer.initial
      lower := Sequencer.initial
      window := p.window
      releaseDelay := p.releaseDelay
      webCount := p.webCount
      qualTime := p.qualTime }
  let s := s.onReport fun r => { r with threshold := p.threshold, tag := p.tag }
  updMode (ModeUnit.adopt p enforce) s

/-- Words handed on one after the other. -/
def handWords (ws : List (Word × (State → Word))) (s : State) : State :=
  ws.foldl (fun s w => handWord w.1 (w.2 s) s) s

/-- The status words of a change of profile: channel state words, band words, web state words, speed
words, depth, stall flag and tag (R154, R156). -/
def profileWords : List (Word × (State → Word)) :=
  (List.range 96).map (fun i => (chanWordAddr i, fun s => s.chanWord i))
    ++ (List.range 16).map (fun c => (bandWordAddr c, fun s => s.bandWord c))
    ++ [ (0x0046, fun s => s.webWord .upper), (0x0047, fun s => s.webWord .lower),
         (0x004C, State.speedWord), (0x004D, State.speedStatusWord), (0x0054, State.depthWord),
         (0x0055, State.stallWord), (0x0056, fun s => s.report.tag) ]

/-- The number of enabled channels of a profile (R154). -/
def Profile.channelCount (p : Profile) : Nat := (p.entries.filter (·.enabled)).length

/-- The adoption completes (R154): the units take the profile, PROFILE ADOPTED is recorded, an adoption
into ENFORCE pins its channels and meets an asserted ESTOP, DONE is answered, BUSY clears and the status
words go onto the mirror list. -/
def completeAdoption (enforce : Bool) (p : Profile) (captured : List (Option Nat)) (s : State) : State :=
  let s := takeProfile p enforce captured s
  let s := recordEvent .profileAdopted 0 p.tag.toNat (adoptMode enforce).code s
  let s := if enforce then estopAtEnforce false (adoptionPin s) else s
  let s := latchCause .profile (answer 1 .done p.channelCount 0 s)
  let s := updCommand (fun c => { c with work := .none }) s
  let s := s.onProfile fun u => { u with adoption := .idle }
  let s := handWords ((0x0044, State.modeWord) :: profileWords) s
  checkQualifiers (deriveDryhold s)

/-- The profile is rejected (R153). -/
def rejectAdoption (reason : RejectReason) (detail : Nat) (s : State) : State :=
  let s := recordEvent .profileRejected 0 reason.code detail s
  let s := latchCause .profile (answer 1 .rejected reason.code detail s)
  let s := updCommand (fun c => { c with work := .none }) s
  s.onProfile fun u => { u with adoption := .idle }

/-- The first enabled channel of a staged profile at or above an index (R152). -/
def nextCapture (p : Profile) (pos : Nat) : Option Nat :=
  (List.range p.entries.length).find? fun i =>
    decide (pos ≤ i) && ((p.entries[i]?).map (·.enabled)).getD false

/-- The capture pass goes on at an index, or the adoption completes (R152). -/
def captureFrom (enforce : Bool) (p : Profile) (pos : Nat) (captured : List (Option Nat)) (s : State) :
    State :=
  match nextCapture p pos with
  | some i => s.onProfile fun u => { u with adoption := .capturing enforce p i captured }
  | none => completeAdoption enforce p captured s

/-- CHECKING: the profile is rejected, or the capture pass begins (R148). -/
def checkAdoption (enforce : Bool) (ws : List Word) (s : State) : State :=
  let s := s.onProfile fun u => { u with adoption := .checking enforce ws }
  match checkProfile s.test.webs ws with
  | some (reason, detail) => rejectAdoption reason detail s
  | none =>
    let p := profileOf ws
    captureFrom enforce p 0 (List.replicate p.entries.length none) s

/-- A word of the read pass arrives (R147). -/
def adoptionRead (v : Word) (s : State) : State :=
  match s.profile.adoption with
  | .reading enforce pos ws =>
    let ws := stageWord pos v ws
    if pos = 0x06F0 then checkAdoption enforce ws s
    else s.onProfile fun u => { u with adoption := .reading enforce (pos + 1) ws }
  | .idle | .checking _ _ | .capturing _ _ _ _ => s

/-- ADOPTION_READ_COMPLETION: the adoption read that holds the port completes (R147). -/
def execAdoptionReadCompletion (s : State) : Host.Outcome State Fault Refusal :=
  .next <|
    match s.arbiter.port with
    | some (.adoptionRead addr live) =>
      let t := s.onArbiter fun u => { u with port := none }
      if live then adoptionRead (s.readMem addr) t else t
    | _ => s

/-- A captured value arrives (R152). -/
def captureRead (i : Nat) (v : Word) (s : State) : State :=
  match s.profile.adoption with
  | .capturing enforce p _ captured =>
    captureFrom enforce p (i + 1) (captured.set i (some v.toNat)) s
  | .idle | .reading _ _ _ | .checking _ _ => s

/-- CAPTURE_READ_COMPLETION: the capture read that holds the port completes (R152). -/
def execCaptureReadCompletion (s : State) : Host.Outcome State Fault Refusal :=
  .next <|
    match s.arbiter.port with
    | some (.captureRead i addr live) =>
      let t := s.onArbiter fun u => { u with port := none }
      if live then captureRead i (s.readMem addr) t else t
    | _ => s

/-- A host write that completes on a word already captured sets the captured value (R152). -/
def followCapture (addr value : Word) (s : State) : State :=
  match s.profile.adoption with
  | .capturing enforce p pos captured =>
    match p.entries.findIdx? (fun e => e.enabled && decide (e.addr = addr)) with
    | some i =>
      if (captured.getD i none).isSome then
        s.onProfile fun u =>
          { u with adoption := .capturing enforce p pos (captured.set i (some value.toNat)) }
      else s
    | none => s
  | .idle | .reading _ _ _ | .checking _ _ => s

/-! ### The commands of the profile unit. `ovr` says that taking the command cleared the overrun flag -/

/-- ADOPT is taken (R146). -/
def takeAdopt (ovr : Bool) (s : State) : State :=
  if s.mode.mode ≠ .unprofiled then answer 1 .wrongMode 0 0 (showOverrun ovr s)
  else if 1 < s.command.arg1.toNat then answer 1 .badArgument 0 0 (showOverrun ovr s)
  else if s.test.flags.failed then answer 1 .selfTestFailed 0 0 (showOverrun ovr s)
  else if s.command.arg1 = 0 ∧ s.profile.lock then answer 1 .locked 0 0 (showOverrun ovr s)
  else
    let enforce := decide (s.command.arg1 = 1#16)
    let s := s.onProfile fun u => { u with adoption := .reading enforce 0x0200 [] }
    let s := updCommand (fun c => { c with work := .adoption }) s
    writeResult 1 .pending 0 0 (showOverrun ovr s)

/-- The qualification time that the QUAL strap gives (R93). -/
def strapTime (qual : Bool) : Nat := if qual then 20 else 5

/-- The tables, timers and sequencers are cleared (R156, steps 2 to 4). -/
def dropProfile (s : State) : State :=
  let s := s.onArbiter fun u => { u with port := u.port.map PortAccess.orphanImposed }
  let s := s.onChan fun u => { u with chans := [], links := [] }
  let s := s.onSpeed fun _ => SpeedUnit.initial
  let s := s.onRamp fun _ => RampUnit.initial
  let s := s.onWeb fun u =>
    { u with
      upper := Sequencer.initial
      lower := Sequencer.initial
      window := 0
      releaseDelay := 0
      webCount := 0
      qualTime := strapTime s.test.qual }
  let s := s.onReport fun r => { r with threshold := 1, tag := 0 }
  updMode (fun m =>
    { m with
      mode := .unprofiled
      causeLiveness := false
      causeEstop := false
      livenessTimer := none
      livenessMet := false
      livenessRenewed := false
      pulseSeen := false
      period := 0
      faultAction := .freeze
      recovery := .command }) s

/-- DISCARD is carried out (R156). -/
def carryOutDiscard (ovr : Bool) (s : State) : State :=
  let tag := s.report.tag
  let left := s.mode.mode
  let s := dropProfile (emptyQueue s)
  let s := showOverrun ovr (recordEvent .profileDiscarded 0 tag.toNat left.code s)
  let s := latchCause .profile (answer 2 .done 0 0 s)
  let s := handWords ((0x0044, State.modeWord) :: (0x0045, State.causesWord) :: profileWords) s
  checkQualifiers (deriveDryhold s)

/-- A web that exists is not OFF (R156). -/
def State.websActive (s : State) : Bool :=
  [WebId.upper, WebId.lower].any fun w => s.webExists w && decide ((s.seq w).state ≠ .off)

/-- DISCARD is taken (R156). -/
def takeDiscard (ovr : Bool) (s : State) : State :=
  if s.mode.mode = .unprofiled then answer 2 .wrongMode 0 0 (showOverrun ovr s)
  else if s.profile.lock then answer 2 .locked 0 0 (showOverrun ovr s)
  else if s.websActive then answer 2 .websActive 0 0 (showOverrun ovr s)
  else carryOutDiscard ovr s

/-- LOCK is taken (R157). -/
def takeLock (ovr : Bool) (s : State) : State :=
  if s.mode.mode = .unprofiled then answer 5 .wrongMode 0 0 (showOverrun ovr s)
  else
    answer 5 .done 0 0 (showOverrun ovr (updProfile (fun u => { u with lock := true }) s))

end Sys2Proof.Machine
end

