-- ==== Sys2Proof/Machine/Commands.lean ====
section
/-! DEFINITION. The command unit and the sequences of spec 08 and 10: the commands of the command word,
RESTART, start-up, the self-test and hardware reset, with the meanings of RESET_ASSERT, START_UP and
SELF_TEST_DONE. -/

namespace Sys2Proof.Machine

/-! ### The commands of the mode unit, the web unit and the channel unit -/

/-- SET MODE is carried out (R125 to R127, R136). -/
def carryOutSetMode (enforce : Bool) (s : State) : State :=
  let old := s.mode.mode
  let new := adoptMode enforce
  let s := updMode (fun m => { m with mode := new }) s
  let s := recordEvent .modeChange 0 old.code new.code s
  deriveDryhold (if enforce then estopAtEnforce true (enforceEntry s) else observeEntry s)

/-- SET MODE is taken (R125). -/
def takeSetMode (ovr : Bool) (s : State) : State :=
  let m := s.mode.mode
  if m ≠ .observe ∧ m ≠ .enforce then answer 3 .wrongMode 0 0 (showOverrun ovr s)
  else if 1 < s.command.arg1.toNat then answer 3 .badArgument 0 0 (showOverrun ovr s)
  else
    let enforce := decide (s.command.arg1 = 1#16)
    if m = adoptMode enforce then answer 3 .done 0 0 (showOverrun ovr s)
    else if !enforce && s.profile.lock then answer 3 .locked 0 0 (showOverrun ovr s)
    else answer 3 .done 0 0 (showOverrun ovr (carryOutSetMode enforce s))

/-- RECOVER is carried out (R141). -/
def carryOutRecover (s : State) : State :=
  let left := s.mode.mode
  let causes := s.causeBits
  let s := updMode (fun m =>
    { m with
      mode := .enforce
      causeLiveness := false
      causeEstop := false
      pulseSeen := false
      livenessMet := false
      livenessRenewed := false
      livenessTimer := m.startLiveness }) s
  deriveDryhold (enforceEntry (recordEvent .recovered 0 causes left.code s))

/-- The causes that fail their check against RECOVER, in the arrangement of word 0x0045 (R140, checks 3
and 4; log 29): each of them is shown when both fail. -/
def State.standingCauses (s : State) : Nat :=
  bitAt (s.mode.causeLiveness && !s.mode.pulseSeen) 0 + bitAt (s.mode.causeEstop && s.mode.estop) 1

/-- RECOVER is taken (R140). -/
def takeRecover (ovr : Bool) (s : State) : State :=
  let m := s.mode.mode
  if m ≠ .frozen ∧ m ≠ .safe then answer 4 .wrongMode 0 0 (showOverrun ovr s)
  else if s.mode.causeLiveness ∧ s.mode.recovery = .resetOnly then
    answer 4 .notPermitted 0 0 (showOverrun ovr s)
  else if s.standingCauses ≠ 0 then
    answer 4 .causePresent s.standingCauses 0 (showOverrun ovr s)
  else answer 4 .done 0 0 (showOverrun ovr (carryOutRecover s))

/-- CLEAR DELTAS is taken (R164). -/
def takeClearDeltas (ovr : Bool) (s : State) : State :=
  let s := s.onWeb fun u =>
    inputLines.foldl (fun u l => u.onInput l fun i => { i with delta := false }) u
  answer 6 .done 0 0 (showOverrun ovr (handInputs s))

/-- CLEAR NOTES is taken (R48, R164). -/
def takeClearNotes (ovr : Bool) (s : State) : State :=
  answer 7 .done 0 0 (showOverrun ovr (clearNotes s))

/-- A storage test begins: all four fail flags set, the ran-to-end flag clear (R175). -/
def beginTest (s : State) : State :=
  deriveDryhold (s.onTest fun t => { t with flags := ⟨true, true, true, true⟩, ranToEnd := false })

/-- SELF TEST is taken (R176). -/
def takeSelfTest (ovr : Bool) (s : State) : State :=
  if s.mode.mode ≠ .unprofiled then answer 8 .wrongMode 0 0 (showOverrun ovr s)
  else
    let s := updCommand (fun c => { c with work := .selfTest }) (beginTest s)
    writeResult 8 .pending 0 0 (showOverrun ovr s)

/-! ### The status area as start-up and RESTART write it (R166, R174) -/

/-- The straps are read (R166): kept for word 0x0042, for Q and for the web-count check. -/
def readStraps (s : State) : State :=
  let s := s.onTest fun t => { t with webs := s.pins.strapWebs, qual := s.pins.strapQual }
  s.onWeb fun u => { u with qualTime := strapTime s.test.qual }

/-- The words of the status area that start-up and RESTART write 0 (R174, step 4). -/
def zeroWords : List Word := (List.range 186).map fun k => wordOf (0x0046 + k)

/-- Every status word and the read index are placed on the mirror list, the indices are set to 0 and the
web results to NONE (R174, steps 4 and 5). -/
def placeStatus (s : State) : State :=
  let s := s.onWeb fun u => { u with resultU := .none, resultL := .none }
  let s := handWord 0x0041 2 (handWord 0x0040 0x7220 s)
  let s := handWord 0x0043 s.testWord (handWord 0x0042 s.strapWord s)
  let s := handWord 0x0045 s.causesWord (handWord 0x0044 s.modeWord s)
  let s := zeroWords.foldl (fun s a => handWord a 0 s) s
  let s := s.onReport fun r => { r with writeIndex := 0, readIndex := 0 }
  handWord 0x0009 0 (handWord 0x0050 0 s)

/-- BUSY clears and the qualifiers start watching (R94, R174, R177). -/
def endSequence (s : State) : State :=
  startQualifiers (updCommand (fun c => { c with work := .none }) s)

/-! ### RESTART (R177) -/

/-- The code that names the work a RESTART abandons (R177). -/
def Work.code : Work → Nat
  | .none => 0
  | .adoption => 1
  | .selfTest => 2
  | .startUp => 3
  | .restart => 4

/-- A test is under way (R175). -/
def State.testing (s : State) : Bool :=
  decide (s.command.work = .selfTest) || decide (s.command.work = .startUp)

/-- The fail flags of a test that did not reach its end: a group already passed has its flag clear, and
which groups those are is a FREE VALUE (R175, log 12). -/
def unfinishedFlags (passed : BitVec 3) : StoreFlags :=
  ⟨!passed.getLsbD 0, !passed.getLsbD 1, !passed.getLsbD 2, true⟩

/-- A RESTART overtakes a test under way: it leaves the flags of the groups not yet passed (R175). -/
def overtakeTest (s : State) : State :=
  if s.testing then
    { s with
      test := { s.test with flags := unfinishedFlags (Config.freeTestProgress s.freeCount) }
      freeCount := s.freeCount + 1 }
  else s

/-- The report unit when a RESTART begins (R165 to R171): lists, latches and lost count cleared, E 1;
the copies and the timestamp counter are kept. DESIGN CHOICE (log 42): R165 does not say whether a granted
entry stays on the list that is emptied, so that a new value for its word joins when its write completes, or
leaves with it; the model empties the list of granted entries too, and the new value joins at once. -/
def ReportUnit.restart (r : ReportUnit) : ReportUnit :=
  { r with
    writeIndex := 0
    readIndex := 0
    ring := []
    lost := 0
    threshold := 1
    latches := 0
    fresh := 0
    attn := false
    mirror := []
    tag := 0 }

/-- The web unit when a RESTART begins (R93, R94, R97): the lines keep their raw levels, and the copy of
the web command word is kept. -/
def WebUnit.restart (u : WebUnit) : WebUnit :=
  { WebUnit.initial with
    breakU := InputState.initial u.breakU.raw
    breakL := InputState.initial u.breakL.raw
    spliceU := InputState.initial u.spliceU.raw
    spliceL := InputState.initial u.spliceL.raw
    estopLine := InputState.initial u.estopLine.raw
    command := u.command }

/-- A RESTART begins: work is abandoned, every block takes its value for the beginning of a RESTART, and
what R177 keeps is kept. -/
def beginRestart (s : State) : State :=
  let s := overtakeTest s
  { s with
    path := { s.path with blocked := 0 }
    arbiter := { s.arbiter with port := s.arbiter.port.map PortAccess.orphan }
    chan := ChannelUnit.initial
    speed := SpeedUnit.initial
    ramp := RampUnit.initial
    web := s.web.restart
    mode := { ModeUnit.initial with livenessWord := s.mode.livenessWord }
    profile := { s.profile with adoption := .idle }
    command := { CommandUnit.initial with
      work := .restart, arg1 := s.command.arg1, left := s.mode.mode, abandoned := s.command.work }
    report := s.report.restart }

/-- RESTART is taken, BUSY or not: it begins, and steps 1 to 3 of its sequence run. BUSY stays set until
the sequence ends (R177; log 11). -/
def takeRestart (s : State) : State := placeStatus (readStraps (beginRestart s))

/-- The end of a RESTART, steps 4 to 6: RESTARTED with the mode left and the work abandoned, DONE, and BUSY
clears (R177). -/
def endRestart (s : State) : State :=
  let s := recordEvent .restarted 0 s.command.left.code s.command.abandoned.code s
  endSequence (answer 9 .done 0 0 s)

/-! ### The command word (R159) -/

/-- Codes 1 to 8 and the codes that name no command; `ovr` says that the overrun flag was set. -/
def runCommand (code : Nat) (ovr : Bool) (s : State) : State :=
  match code with
  | 1 => takeAdopt ovr s
  | 2 => takeDiscard ovr s
  | 3 => takeSetMode ovr s
  | 4 => takeRecover ovr s
  | 5 => takeLock ovr s
  | 6 => takeClearDeltas ovr s
  | 7 => takeClearNotes ovr s
  | 8 => takeSelfTest ovr s
  | _ => answer code .badCode 0 0 (showOverrun ovr s)

/-- The host wrote a command that the guard does not take: the overrun flag is set (R162). -/
def missCommand (s : State) : State := updCommand (fun c => { c with overrun := true }) s

/-- A performed write to the command word is taken as a command; code 0 is none. The taking clears the
overrun flag (R159, R162). BUSY is set here only for a write that was under way when RESET asserted and that
completes in the start-up that followed (R13): no command but RESTART is answered then (R174), and the
overrun flag shows it. DESIGN CHOICE (log 40). -/
def takeCommand (code : Nat) (s : State) : State :=
  if code = 0 then s
  else if code = 9 then takeRestart s
  else if s.busy then missCommand s
  else runCommand code s.command.overrun (s.onCommand fun c => { c with overrun := false })

/-! ### Start-up and the self-test (10.1, 10.2) -/

/-- START_UP: RESET is released and start-up begins (R174, step 1; R13): BUSY is set, the counts are 0,
the storage test begins. -/
def startUp (s : State) : State :=
  let s := s.onPins fun p => { p with resetHeld := false }
  let s := s.onPath fun u => { u with blocked := 0 }
  let s := s.onChan fun u => { u with absorbed := 0 }
  let s := s.onReport fun r => { r with lost := 0 }
  beginTest (updCommand (fun c => { c with work := .startUp }) s)

/-- START_UP: the release of RESET (R174). -/
def execStartUp (s : State) : Host.Outcome State Fault Refusal :=
  .next (if s.pins.resetHeld then startUp s else s)

/-- A storage test has ended: the flags are its outcome and DRYHOLD follows (R175). -/
def finishTest (failed : StoreFlags) (s : State) : State :=
  deriveDryhold (s.onTest fun t => { t with flags := failed, ranToEnd := true })

/-- The end of start-up: steps 3 to 7 (R174). -/
def finishStartUp (s : State) : State :=
  let s := placeStatus (readStraps s)
  endSequence (recordEvent .selfTestDone 0 s.test.flags.bits 0 s)

/-- The end of a commanded self-test (R176). -/
def finishSelfTest (s : State) : State :=
  let s := handWord 0x0043 s.testWord s
  let s := recordEvent .selfTestDone 0 s.test.flags.bits 1 s
  updCommand (fun c => { c with work := .none }) (answer 8 .done s.test.flags.bits 0 s)

/-- SELF_TEST_DONE: the storage test of start-up or of SELF TEST ends, with the groups that failed
(R175). -/
def execSelfTestDone (failed : StoreFlags) (s : State) : Host.Outcome State Fault Refusal :=
  .next <|
    match s.command.work with
    | .startUp => finishStartUp (finishTest failed s)
    | .selfTest => finishSelfTest (finishTest failed s)
    | .none | .adoption | .restart => s

/-! ### Hardware reset (R12, R13) -/

/-- The web unit under hardware reset; the lines keep their raw levels. -/
def WebUnit.underReset (u : WebUnit) : WebUnit := { u.restart with command := 0 }

/-- RESET asserts: every block returns to its initial state; memory, the pins and the accesses under way
stay, the host's with the class it had when it began (R13). DESIGN CHOICE (log 42): the mirror list loses
its granted entry too. -/
def assertReset (s : State) : State :=
  { s with
    pins := { s.pins with resetHeld := true }
    path := { s.path with blocked := 0 }
    arbiter := { record := .guard, port := s.arbiter.port.map PortAccess.orphan }
    chan := ChannelUnit.initial
    speed := SpeedUnit.initial
    ramp := RampUnit.initial
    web := s.web.underReset
    mode := ModeUnit.initial
    profile := ProfileUnit.initial
    command := CommandUnit.initial
    report := ReportUnit.initial
    test := TestUnit.initial }

/-- RESET_ASSERT: the RESET line asserts (R13). -/
def execResetAssert (s : State) : Host.Outcome State Fault Refusal := .next (assertReset s)

end Sys2Proof.Machine
end

