-- ==== Sys2Proof/Machine/Path.lean ====
section
/-! DEFINITION. The path unit and the port arbiter (spec 01): how a host access is classed, blocked, ruled
on, granted and completed, and how the guard's own accesses are offered and granted. -/

namespace Sys2Proof.Machine

/-! ### What a performed write is handed to (R6) -/

/-- The acknowledge word is taken (R172). -/
def takeAcknowledge (v : Word) (s : State) : State :=
  let s := s.onReport fun r => { r with ackWord := v }
  if s.report.ackMode = 1 then s else clearCauses (v.truncate 8) s

/-- The mask copy takes a value and ATTN is derived afresh (R171). -/
def takeMask (v : Word) (s : State) : State :=
  s.onReport fun r =>
    let r := { r with mask := v }
    { r with attn := r.attnLevel }

/-- The mirror list without a waiting entry for a word; a granted entry stays, with no newer value. -/
def mirrorDrop (addr : Word) (l : List MirrorEntry) : List MirrorEntry :=
  (l.filter fun e => decide (e.addr ≠ addr) || e.granted).map fun e =>
    if e.addr = addr then { e with newer := none } else e

/-- The event read index is taken: the copy takes it, and the guard's own waiting write of 0x0009 is
removed (R7). -/
def takeReadIndex (v : Word) (s : State) : State :=
  s.onReport fun r => { r with readIndex := v.toNat, mirror := mirrorDrop 0x0009 r.mirror }

/-- A performed write of the control area is handed to the unit that owns the word (R6). -/
def handControl (addr value : Word) (s : State) : State :=
  match addr.toNat with
  | 0 => takeCommand value.toNat s
  | 1 => s.onCommand fun c => { c with arg1 := value }
  | 4 => takeWebCommand value s
  | 5 => takeLiveness value s
  | 6 => takeMask value s
  | 7 => s.onReport fun r => { r with ackMode := value }
  | 8 => takeAcknowledge value s
  | 9 => takeReadIndex value s
  | _ => s

/-! ### The beginning of a host access (R1, R4 to R12) -/

/-- What the path unit does with a host write, decided when it begins. -/
inductive Verdict where
  | blocked
  | perform (cls : AccessClass)
  | rule (channel : Nat)
  deriving DecidableEq, Repr

/-- The class of a host write (R1, R6, R8 to R12). -/
def classify (addr value : Word) (s : State) : Verdict :=
  if s.pins.resetHeld then .perform .transparent
  else
    match areaOf addr with
    | .control =>
      if addr = 0 ∧ s.busy ∧ value ≠ 9#16 then .blocked
      else if addr = 9#16 ∧ 63 < value.toNat then .blocked
      else .perform .control
    | .status | .ring => .blocked
    | .guard =>
      if s.mode.mode = .unprofiled ∧ s.profile.adoption = .idle ∧ s.profile.lock = false then
        .perform .plain
      else .blocked
    | .general | .input => .perform .plain
    | .output =>
      match s.channelAt addr with
      | some i => .rule i
      | none => .perform .plain

/-- A write is counted as blocked; a count that changes is handed on (R5). -/
def countBlocked (s : State) : State :=
  let n := saturate (s.path.blocked + 1)
  if n = s.path.blocked then s
  else handWord 0x0052 (wordOf n) (s.onPath fun u => { u with blocked := n })

/-- A blocked write: no memory access, the blocked count, and the overrun flag for the command word (R4,
R5, R162). -/
def blockWrite (addr : Word) (s : State) : State :=
  countBlocked (if addr = 0 then missCommand s else s)

/-- A host access begins: what it does at once, and the access that goes to the arbiter, if any. -/
def beginAccess (r : HostRequest) (s : State) : State × Option HostAccess :=
  match r.value with
  | none =>
    (s, some ⟨r.addr, true, 0, if s.pins.resetHeld then .transparent else .read⟩)
  | some v =>
    match classify r.addr v s with
    | .blocked => (blockWrite r.addr s, none)
    | .perform cls => (s, some ⟨r.addr, false, v, cls⟩)
    | .rule i =>
      let t := ruleHostWrite i v.toNat s
      (t.1, t.2.map fun x => ⟨r.addr, false, wordOf x, .channel⟩)

/-! ### The completion of a host access -/

/-- A read of the attention summary word is handed to the report unit with the value it returned (R3,
R173). -/
def summaryRead (value : Word) (s : State) : State :=
  if s.report.ackMode = 1 then clearCauses (value.truncate 8 &&& ~~~s.report.fresh) s else s

/-- A host access completes: memory is read or written, and what the class hands on is handed on (R2,
R3, R6, R10, R26, R152). While RESET is held nothing is handed on, of whatever class (R12); an access that
was under way when RESET asserted and that completes after the release is handed on by its class (R13). -/
def completeAccess (a : HostAccess) (s : State) : State :=
  if a.isRead then
    let v := s.readMem a.addr
    let s := s.onPath fun u => { u with hostData := v }
    if a.cls = .read ∧ a.addr = 0x004F#16 ∧ s.pins.resetHeld = false then summaryRead v s else s
  else
    let s := s.writeMem a.addr a.value
    if s.pins.resetHeld then s
    else
      match a.cls with
      | .transparent | .read => s
      | .control => handControl a.addr a.value s
      | .plain =>
        match s.channelAt a.addr with
        | some i => landLateWrite i a.value.toNat s
        | none => followCapture a.addr a.value s
      | .channel =>
        match s.channelAt a.addr with
        | some i => landValue i a.value.toNat true s
        | none => s

/-! ### The arbiter (R14, R15) -/

/-- The imposed write that the queue offers while GAP is asserted (R77). -/
def imposedOffer (s : State) : Option PortAccess :=
  if s.pins.gap then
    match s.ramp.queue.find? (fun e => !e.granted) with
    | some e => (s.chanAt e.channel).map fun c =>
        .imposed e.channel c.cfg.addr (wordOf e.value) true
    | none => none
  else none

/-- Word k of a ring record. -/
def RingRecord.word (r : RingRecord) : Nat → Word
  | 0 => r.word0
  | 1 => r.word1
  | 2 => r.word2
  | _ => r.word3

/-- The ring write that the ring write list offers (R169). -/
def ringOffer (s : State) : Option PortAccess :=
  s.report.ring.head?.map fun r => .ring (ringAddr r.slot r.done) (r.word r.done) true

/-- The mirror write that the mirror list offers (R165). -/
def mirrorOffer (s : State) : Option PortAccess :=
  (s.report.mirror.find? (fun e => !e.granted)).map fun e => .mirror e.addr e.value true

/-- The read that an adoption in flight offers (R147, R152). -/
def readOffer (s : State) : Option PortAccess :=
  match s.profile.adoption with
  | .reading _ pos _ => some (.adoptionRead (wordOf pos) true)
  | .capturing _ p pos _ => (p.entries[pos]?).map fun e => .captureRead pos e.addr true
  | .idle | .checking _ _ => none

/-- The guard access offered: the first in the order of R15; none while RESET is held (R12). -/
def guardOffer (s : State) : Option PortAccess :=
  if s.pins.resetHeld then none
  else (imposedOffer s).or ((ringOffer s).or ((mirrorOffer s).or (readOffer s)))

/-- A waiting host access is granted the free port: only it waits, or the record reads GUARD (R14). -/
def hostWins (s : State) : Bool :=
  (guardOffer s).isNone || decide (s.arbiter.record = .guard)

/-- The access that holds the port, and the record of the side granted (R14). -/
def grant (side : Side) (p : Option PortAccess) (s : State) : State :=
  s.onArbiter fun _ => ⟨side, p⟩

/-- The mark that a grant sets on the entry granted: on the queue's entry (R74), on the mirror list's
entry, and the fresh marks cleared by a grant of the summary word (R165, R170). -/
def markGranted (p : PortAccess) (s : State) : State :=
  match p with
  | .imposed i _ _ _ =>
    s.onRamp fun u =>
      { u with queue := u.queue.map fun e => if e.channel = i then { e with granted := true } else e }
  | .mirror addr _ _ =>
    s.onReport fun r =>
      { r with
        mirror := r.mirror.map fun e => if e.addr = addr then { e with granted := true } else e
        fresh := if addr = 0x004F#16 then 0 else r.fresh }
  | .host | .ring _ _ _ | .adoptionRead _ _ | .captureRead _ _ _ => s

/-- A guard access is granted the port. -/
def grantGuard (p : PortAccess) (s : State) : State := markGranted p (grant .guard (some p) s)

/-- A host access is granted the port: a read completes with the grant, since its value is what memory
holds then (R2); a write holds the port until HOST_WRITE_COMPLETION. -/
def grantHost (a : HostAccess) (s : State) : State :=
  if a.isRead then completeAccess a ((grant .host none s).onPath fun u => { u with host := none })
  else (grant .host (some .host) s).onPath fun u => { u with host := some a }

/-- The free port is granted (R14). -/
def arbitrate (s : State) : State :=
  if s.arbiter.port.isSome then s
  else
    match s.path.host, guardOffer s with
    | some a, none => grantHost a s
    | some a, some p => if s.arbiter.record = .guard then grantHost a s else grantGuard p s
    | none, some p => grantGuard p s
    | none, none => s

/-! ### Host accesses as commands -/

/-- The host's bus is held: an access is under way, or others wait before this one (R4, R14). -/
def busHeld (s : State) : Bool := s.path.host.isSome || !s.path.held.isEmpty

/-- A host access waits until the host's bus is released (R14; log 6). -/
def holdRequest (r : HostRequest) (s : State) : State :=
  s.onPath fun u => { u with held := u.held ++ [r] }

/-- An access goes to the arbiter: a channel-word write that wins the free port holds it until its
completion, any other access that wins completes at once, and one that does not win waits (R14). -/
def submit (a : HostAccess) (s : State) : State :=
  if s.arbiter.port.isNone && hostWins s then
    if a.cls = .channel then grantHost a s else completeAccess a (grant .host none s)
  else s.onPath fun u => { u with host := some a }

/-- The host makes an access. -/
def hostAccess (r : HostRequest) (s : State) : State :=
  if busHeld s then holdRequest r s
  else
    match beginAccess r s with
    | (t, none) => t
    | (t, some a) => submit a t

/-- The host writes a word. -/
def hostWrite (addr value : Word) (s : State) : State := hostAccess ⟨addr, some value⟩ s

/-- The first access that waits for the host's bus begins, if the bus has been released. -/
def startHeld (s : State) : State :=
  match s.path.host, s.path.held with
  | none, r :: rest =>
    let t := beginAccess r (s.onPath fun u => { u with held := rest })
    t.1.onPath fun u => { u with host := t.2 }
  | _, _ => s

/-- A plain host read that waits when the port becomes free (R2). -/
def joinRead (read : Option Word) (s : State) : State :=
  match read with
  | none => s
  | some addr => holdRequest ⟨addr, none⟩ s

end Sys2Proof.Machine
end

