-- ==== Sys2Proof/Machine/HostRows.lean ====
section
/-! DEFINITION. The meanings of the rows that are accesses of the host. Each is the host's access to its
word; the path unit classes it by R1 and R4 to R12, and the unit that owns the word takes it. -/

namespace Sys2Proof.Machine

/-! ### The command word 0x0000 (R159) -/

/-- ADOPT: code 1 (R146), taken by `takeAdopt`. -/
def execAdopt (s : State) : Host.Outcome State Fault Refusal := .next (hostWrite 0x0000 1 s)

/-- DISCARD: code 2 (R156), taken by `takeDiscard`. -/
def execDiscard (s : State) : Host.Outcome State Fault Refusal := .next (hostWrite 0x0000 2 s)

/-- SET_MODE: code 3 (R125), taken by `takeSetMode`. -/
def execSetMode (s : State) : Host.Outcome State Fault Refusal := .next (hostWrite 0x0000 3 s)

/-- RECOVER: code 4 (R140), taken by `takeRecover`. -/
def execRecover (s : State) : Host.Outcome State Fault Refusal := .next (hostWrite 0x0000 4 s)

/-- LOCK: code 5 (R157), taken by `takeLock`. -/
def execLock (s : State) : Host.Outcome State Fault Refusal := .next (hostWrite 0x0000 5 s)

/-- CLEAR_DELTAS: code 6 (R164), taken by `takeClearDeltas`. -/
def execClearDeltas (s : State) : Host.Outcome State Fault Refusal := .next (hostWrite 0x0000 6 s)

/-- CLEAR_NOTES: code 7 (R48), taken by `takeClearNotes`. -/
def execClearNotes (s : State) : Host.Outcome State Fault Refusal := .next (hostWrite 0x0000 7 s)

/-- SELF_TEST: code 8 (R176), taken by `takeSelfTest`. -/
def execSelfTest (s : State) : Host.Outcome State Fault Refusal := .next (hostWrite 0x0000 8 s)

/-- RESTART: code 9 (R177), taken by `takeRestart`. -/
def execRestart (s : State) : Host.Outcome State Fault Refusal := .next (hostWrite 0x0000 9 s)

/-- BAD_CODE: a code that names no command (R159), refused by `runCommand`. -/
def execBadCode (code : Word) (s : State) : Host.Outcome State Fault Refusal :=
  .next (hostWrite 0x0000 code s)

/-! ### The web command word 0x0004 (R100) -/

/-- ENABLE: code 1 in a field (R101), taken by `takeWebCommand`. -/
def execEnable (value : Word) (s : State) : Host.Outcome State Fault Refusal :=
  .next (hostWrite 0x0004 value s)

/-- RUN: code 2 in a field (R102), taken by `takeWebCommand`. -/
def execRun (value : Word) (s : State) : Host.Outcome State Fault Refusal :=
  .next (hostWrite 0x0004 value s)

/-- REARM: code 3 in a field (R103), taken by `takeWebCommand`. -/
def execRearm (value : Word) (s : State) : Host.Outcome State Fault Refusal :=
  .next (hostWrite 0x0004 value s)

/-- DISABLE: code 4 in a field (R104), taken by `takeWebCommand`. -/
def execDisable (value : Word) (s : State) : Host.Outcome State Fault Refusal :=
  .next (hostWrite 0x0004 value s)

/-- WEB_BAD_CODE: an unused code in a field (R100), taken by `takeWebCommand`. -/
def execWebBadCode (value : Word) (s : State) : Host.Outcome State Fault Refusal :=
  .next (hostWrite 0x0004 value s)

/-- WEB_COMMAND_NO_ACTION: 0 in both fields (R100), taken by `takeWebCommand`. -/
def execWebCommandNoAction (value : Word) (s : State) : Host.Outcome State Fault Refusal :=
  .next (hostWrite 0x0004 value s)

/-! ### The other words -/

/-- LIVENESS_WRITE: the liveness word 0x0005 (R129), taken by `takeLiveness`. -/
def execLivenessWrite (value : Word) (s : State) : Host.Outcome State Fault Refusal :=
  .next (hostWrite 0x0005 value s)

/-- ATTENTION_MASK_WRITE: the attention mask 0x0006 (R171), taken by `takeMask`. -/
def execAttentionMaskWrite (value : Word) (s : State) : Host.Outcome State Fault Refusal :=
  .next (hostWrite 0x0006 value s)

/-- ACKNOWLEDGE: the acknowledge word 0x0008 (R172), taken by `takeAcknowledge`. -/
def execAcknowledge (value : Word) (s : State) : Host.Outcome State Fault Refusal :=
  .next (hostWrite 0x0008 value s)

/-- EVENT_READ_INDEX_WRITE: the event read index 0x0009 (R7), taken by `takeReadIndex`. -/
def execEventReadIndexWrite (value : Word) (s : State) : Host.Outcome State Fault Refusal :=
  .next (hostWrite 0x0009 value s)

/-- CONTROL_WRITE: a control word with no row of its own (R6). -/
def execControlWrite (addr value : Word) (s : State) : Host.Outcome State Fault Refusal :=
  .next (hostWrite addr value s)

/-- PLAIN_WRITE: a word outside the control area that is no channel word (R8 to R12, R152). -/
def execPlainWrite (addr value : Word) (s : State) : Host.Outcome State Fault Refusal :=
  .next (hostWrite addr value s)

/-- BLOCKED_WRITE: a write that the path unit blocks when its rules say so (R4). -/
def execBlockedWrite (addr value : Word) (s : State) : Host.Outcome State Fault Refusal :=
  .next (hostWrite addr value s)

/-- HOST_CHANNEL_WRITE: an output-image word, ruled on by the channel unit when it is a channel word (R11,
R36 to R43). -/
def execHostChannelWrite (addr value : Word) (s : State) : Host.Outcome State Fault Refusal :=
  .next (hostWrite addr value s)

/-- ATTENTION_SUMMARY_READ: the host reads word 0x004F (R3, R173). -/
def execAttentionSummaryRead (s : State) : Host.Outcome State Fault Refusal :=
  .next (hostAccess ⟨0x004F, none⟩ s)

end Sys2Proof.Machine
end

