-- ==== Sys2Proof/Machine/Port.lean ====
section
/-! DEFINITION. The meanings of the port rows and of the timestamp tick (spec 01, 1.5; 04, R73, R77; 08,
R165; 09, R167, R169, R170). -/

namespace Sys2Proof.Machine

/-- The port is released. -/
def freePort (s : State) : State := s.onArbiter fun u => { u with port := none }

/-- PORT_GRANT: the port becomes free and the arbiter grants the next access; a plain host read may be
waiting (R14, R2). -/
def execPortGrant (read : Option Word) (s : State) : Host.Outcome State Fault Refusal :=
  .next (arbitrate (startHeld (joinRead read s)))

/-- HOST_WRITE_COMPLETION: the host write that holds the port completes (R27, R152, R6). -/
def execHostWriteCompletion (s : State) : Host.Outcome State Fault Refusal :=
  .next <|
    match s.arbiter.port, s.path.host with
    | some .host, some a =>
      completeAccess a ((freePort s).onPath fun u => { u with host := none })
    | _, _ => s

/-- An imposed write lands: the entry leaves the queue, the channel takes the value, and a queue that is
then empty ends the scan-stall timer (R77, R73). -/
def landImposed (i : Nat) (value : Word) (s : State) : State :=
  let s := if s.entryGranted i then leaveQueue i s else s
  ifEmptied 0 (landValue i value.toNat false s)

/-- IMPOSED_WRITE_COMPLETION: the imposed write that holds the port completes (R73). -/
def execImposedWriteCompletion (s : State) : Host.Outcome State Fault Refusal :=
  .next <|
    match s.arbiter.port with
    | some (.imposed i addr value live) =>
      let t := (freePort s).writeMem addr value
      if live then landImposed i value t else t
    | _ => s

/-- A record has landed whole: the write index advances, and EVENTS is latched when the unread count
reaches E from below (R169, R170). -/
def recordLanded (rest : List RingRecord) (s : State) : State :=
  let before := s.report.unread
  let s := s.onReport fun r => { r with ring := rest, writeIndex := (r.writeIndex + 1) % 64 }
  let s := handWord 0x0050 (wordOf s.report.writeIndex) s
  if before < s.report.threshold ∧ s.report.threshold ≤ s.report.unread then latchCause .events s
  else s

/-- A word of the oldest record has landed (R169). -/
def ringLanded (s : State) : State :=
  match s.report.ring with
  | [] => s
  | r :: rest =>
    if r.done < 3 then s.onReport fun u => { u with ring := { r with done := r.done + 1 } :: rest }
    else recordLanded rest s

/-- RING_WRITE_COMPLETION: a word of an event record lands (R169). -/
def execRingWriteCompletion (s : State) : Host.Outcome State Fault Refusal :=
  .next <|
    match s.arbiter.port with
    | some (.ring addr value live) =>
      let t := (freePort s).writeMem addr value
      if live then ringLanded t else t
    | _ => s

/-- The mirror list when a granted write has completed: its entry leaves, and a newer value joins the
tail (R165). -/
def mirrorLanded (addr : Word) (l : List MirrorEntry) : List MirrorEntry :=
  let rest := l.filter fun e => !(decide (e.addr = addr) && e.granted)
  match l.find? fun e => decide (e.addr = addr) && e.granted with
  | some { newer := some v, .. } => rest ++ [⟨addr, v, false, none⟩]
  | _ => rest

/-- MIRROR_WRITE_COMPLETION: a mirror write completes (R165). -/
def execMirrorWriteCompletion (s : State) : Host.Outcome State Fault Refusal :=
  .next <|
    match s.arbiter.port with
    | some (.mirror addr value live) =>
      let t := (freePort s).writeMem addr value
      if live then t.onReport fun r => { r with mirror := mirrorLanded addr r.mirror } else t
    | _ => s

/-- TIMESTAMP_TICK: the timestamp counter adds one and wraps; it does not count while RESET is held
(R167). -/
def execTimestampTick (s : State) : Host.Outcome State Fault Refusal :=
  .next <|
    if s.pins.resetHeld then s
    else s.onReport fun r => { r with timestamp := (r.timestamp + 1) % 65536 }

end Sys2Proof.Machine
end

