-- ==== Sys2Proof/Machine/Dispatch.lean ====
section
/-! DEFINITION. One arm for each command of the table: the call of its meaning. -/

namespace Sys2Proof.Machine

def exec (i : Instr) (s : State) : Host.Outcome State Fault Refusal :=
  match i with
  | .adopt => Sys2Proof.Machine.execAdopt s
  | .discard => Sys2Proof.Machine.execDiscard s
  | .setMode => Sys2Proof.Machine.execSetMode s
  | .recover => Sys2Proof.Machine.execRecover s
  | .lock => Sys2Proof.Machine.execLock s
  | .clearDeltas => Sys2Proof.Machine.execClearDeltas s
  | .clearNotes => Sys2Proof.Machine.execClearNotes s
  | .selfTest => Sys2Proof.Machine.execSelfTest s
  | .restart => Sys2Proof.Machine.execRestart s
  | .badCode code => Sys2Proof.Machine.execBadCode code s
  | .enable value => Sys2Proof.Machine.execEnable value s
  | .run value => Sys2Proof.Machine.execRun value s
  | .rearm value => Sys2Proof.Machine.execRearm value s
  | .disable value => Sys2Proof.Machine.execDisable value s
  | .webBadCode value => Sys2Proof.Machine.execWebBadCode value s
  | .hostChannelWrite addr value => Sys2Proof.Machine.execHostChannelWrite addr value s
  | .hostWriteCompletion => Sys2Proof.Machine.execHostWriteCompletion s
  | .blockedWrite addr value => Sys2Proof.Machine.execBlockedWrite addr value s
  | .livenessWrite value => Sys2Proof.Machine.execLivenessWrite value s
  | .attentionMaskWrite value => Sys2Proof.Machine.execAttentionMaskWrite value s
  | .acknowledge value => Sys2Proof.Machine.execAcknowledge value s
  | .eventReadIndexWrite value => Sys2Proof.Machine.execEventReadIndexWrite value s
  | .controlWrite addr value => Sys2Proof.Machine.execControlWrite addr value s
  | .plainWrite addr value => Sys2Proof.Machine.execPlainWrite addr value s
  | .attentionSummaryRead => Sys2Proof.Machine.execAttentionSummaryRead s
  | .resetAssert => Sys2Proof.Machine.execResetAssert s
  | .startUp => Sys2Proof.Machine.execStartUp s
  | .qualifierStart line raw => Sys2Proof.Machine.execQualifierStart line raw s
  | .breakQualifiedAssertion web => Sys2Proof.Machine.execBreakQualifiedAssertion web s
  | .breakQualifiedNegation web => Sys2Proof.Machine.execBreakQualifiedNegation web s
  | .spliceQualifiedAssertion web => Sys2Proof.Machine.execSpliceQualifiedAssertion web s
  | .spliceQualifiedNegation web => Sys2Proof.Machine.execSpliceQualifiedNegation web s
  | .estopQualifiedAssertion => Sys2Proof.Machine.execEstopQualifiedAssertion s
  | .estopQualifiedNegation => Sys2Proof.Machine.execEstopQualifiedNegation s
  | .spliceWindowExpiry web => Sys2Proof.Machine.execSpliceWindowExpiry web s
  | .tripReleased web => Sys2Proof.Machine.execTripReleased web s
  | .tachPulse source => Sys2Proof.Machine.execTachPulse source s
  | .silence source => Sys2Proof.Machine.execSilence source s
  | .gateEnd => Sys2Proof.Machine.execGateEnd s
  | .rampTick => Sys2Proof.Machine.execRampTick s
  | .gapAssert => Sys2Proof.Machine.execGapAssert s
  | .gapNegate => Sys2Proof.Machine.execGapNegate s
  | .portGrant read => Sys2Proof.Machine.execPortGrant read s
  | .imposedWriteCompletion => Sys2Proof.Machine.execImposedWriteCompletion s
  | .scanStall => Sys2Proof.Machine.execScanStall s
  | .ringWriteCompletion => Sys2Proof.Machine.execRingWriteCompletion s
  | .mirrorWriteCompletion => Sys2Proof.Machine.execMirrorWriteCompletion s
  | .adoptionReadCompletion => Sys2Proof.Machine.execAdoptionReadCompletion s
  | .captureReadCompletion => Sys2Proof.Machine.execCaptureReadCompletion s
  | .livenessExpired => Sys2Proof.Machine.execLivenessExpired s
  | .selfTestDone failed => Sys2Proof.Machine.execSelfTestDone failed s
  | .timestampTick => Sys2Proof.Machine.execTimestampTick s
  | .webCommandNoAction value => Sys2Proof.Machine.execWebCommandNoAction value s

end Sys2Proof.Machine
end

