-- ==== Sys2Proof/Machine/Time.lean ====
section
/-! DEFINITION. What the block does when no command waits: the end of a RESTART (log 11), or one millisecond
(4.2 of spec 00; log 1). Running timers count down to 0, held qualifier times and splice times count up;
the expiries themselves are commands (log 2). -/

namespace Sys2Proof.Machine

/-- A running timer counts down and rests at 0; a stopped one stays stopped. -/
def Timer.pass (t : Timer) : Timer := t.map (· - 1)

def SourceState.pass (c : SourceState) : SourceState :=
  { c with timer := Timer.pass c.timer, renewed := false }

/-- A timing qualifier has held for one more millisecond (R92). -/
def InputState.pass (i : InputState) : InputState := { i with qualifier := i.qualifier.map (· + 1) }

/-- A sequencer's timers, and the time since the present splice began, 0 to W (5.2). -/
def Sequencer.pass (window : Nat) (q : Sequencer) : Sequencer :=
  { q with
    spliceTimer := Timer.pass q.spliceTimer
    spliceTime := if q.spliceTimer.isSome then Nat.min (q.spliceTime + 1) window else q.spliceTime
    releaseTimer := Timer.pass q.releaseTimer }

def WebUnit.pass (u : WebUnit) : WebUnit :=
  { u with
    breakU := u.breakU.pass
    breakL := u.breakL.pass
    spliceU := u.spliceU.pass
    spliceL := u.spliceL.pass
    estopLine := u.estopLine.pass
    upper := u.upper.pass u.window
    lower := u.lower.pass u.window }

/-- One millisecond passes. -/
def millisecond (s : State) : State :=
  { s with
    speed :=
      { s.speed with
        srcA := s.speed.srcA.pass
        srcB := s.speed.srcB.pass
        gateTimer := Timer.pass s.speed.gateTimer }
    ramp :=
      { s.ramp with
        rampTimer := Timer.pass s.ramp.rampTimer
        stallTimer := Timer.pass s.ramp.stallTimer }
    web := s.web.pass
    mode := { s.mode with
      livenessTimer := Timer.pass s.mode.livenessTimer, livenessMet := false, livenessRenewed := false } }

/-- No command waits: a RESTART under way ends, else one millisecond passes. -/
def idleStep (s : State) : State := if s.command.work = .restart then endRestart s else millisecond s

end Sys2Proof.Machine
end

