-- ==== Sys2Proof/Safety.lean ====
section
/-! DEFINITION. The words in which statements about the block are made: what a command gives, what it
leaves unchanged, and the laws that every step keeps. -/

namespace Sys2Proof

/-- The word and the value of a row that is a write of the host. -/
def Instr.write : Instr → Option (Word × Word)
  | .adopt => some (0x0000, 1)
  | .discard => some (0x0000, 2)
  | .setMode => some (0x0000, 3)
  | .recover => some (0x0000, 4)
  | .lock => some (0x0000, 5)
  | .clearDeltas => some (0x0000, 6)
  | .clearNotes => some (0x0000, 7)
  | .selfTest => some (0x0000, 8)
  | .restart => some (0x0000, 9)
  | .badCode code => some (0x0000, code)
  | .enable v | .run v | .rearm v | .disable v | .webBadCode v | .webCommandNoAction v =>
    some (0x0004, v)
  | .livenessWrite v => some (0x0005, v)
  | .attentionMaskWrite v => some (0x0006, v)
  | .acknowledge v => some (0x0008, v)
  | .eventReadIndexWrite v => some (0x0009, v)
  | .hostChannelWrite addr v | .blockedWrite addr v | .controlWrite addr v | .plainWrite addr v =>
    some (addr, v)
  | .hostWriteCompletion | .attentionSummaryRead | .resetAssert | .startUp | .qualifierStart _ _
  | .breakQualifiedAssertion _ | .breakQualifiedNegation _ | .spliceQualifiedAssertion _
  | .spliceQualifiedNegation _ | .estopQualifiedAssertion | .estopQualifiedNegation
  | .spliceWindowExpiry _ | .tripReleased _ | .tachPulse _ | .silence _ | .gateEnd | .rampTick
  | .gapAssert | .gapNegate | .portGrant _ | .imposedWriteCompletion | .scanStall
  | .ringWriteCompletion | .mirrorWriteCompletion | .adoptionReadCompletion
  | .captureReadCompletion | .livenessExpired | .selfTestDone _ | .timestampTick => none

end Sys2Proof

namespace Sys2Proof.Machine

/-! ### What a command gives -/

/-- The command answers a next state, and that state has the property. -/
abbrev Gives (i : Instr) (s : State) (P : State → Prop) : Prop := ∃ t, exec i s = .next t ∧ P t

/-- A host access made now is granted the port at once: the host's bus and the port are free, and the
guard offers nothing or had the last grant (R14). -/
abbrev HostFree (s : State) : Prop :=
  s.path.host = none ∧ s.path.held = [] ∧ s.arbiter.port = none ∧
    (guardOffer s = none ∨ s.arbiter.record = .guard)

/-- The host's bus is free, so an access begins at once; the port may be held (R4). -/
abbrev BusFree (s : State) : Prop := s.path.host = none ∧ s.path.held = []

/-- The host's bus and the port are free and the guard had the last grant, so that the host's next access
wins the port whatever the guard offers by then (R14). -/
abbrev HostNext (s : State) : Prop := BusFree s ∧ s.arbiter.port = none ∧ s.arbiter.record = .guard

/-- RESET is not held and BUSY is clear: a command-word write is taken as a command (R6, R159). -/
abbrev TakesCommands (s : State) : Prop :=
  HostFree s ∧ s.pins.resetHeld = false ∧ s.command.work = .none

/-! ### What stays unchanged -/

/-- Exactly one word of memory is stored to: it holds the value, and every other word reads as before. -/
abbrev Stores (addr value : Word) (s t : State) : Prop :=
  t.readMem addr = value ∧ ∀ a, a ≠ addr → t.readMem a = s.readMem a

/-- Every word of memory reads as before. -/
abbrev StoresNothing (s t : State) : Prop := ∀ a, t.readMem a = s.readMem a

/-- The indices, the timestamp, the threshold, the copies of control words and the tag of the report
unit are as before. -/
abbrev ReportKept (s t : State) : Prop :=
  t.report = { s.report with
    ring := t.report.ring
    lost := t.report.lost
    latches := t.report.latches
    fresh := t.report.fresh
    attn := t.report.attn
    mirror := t.report.mirror }

/-- The records recorded and dropped in `t` are those of `u`. -/
abbrev SameLog (u t : State) : Prop :=
  t.report.ring = u.report.ring ∧ t.report.lost = u.report.lost

/-- No cause is latched or cleared. -/
abbrev SameLatches (s t : State) : Prop :=
  t.report.latches = s.report.latches ∧ t.report.fresh = s.report.fresh ∧
    t.report.attn = s.report.attn

/-- Causes are latched, with their fresh marks, and ATTN follows (R170, R171). -/
abbrev Latches (causes : BitVec 8) (s t : State) : Prop :=
  t.report.latches = s.report.latches ||| causes ∧ t.report.fresh = s.report.fresh ||| causes ∧
    t.report.attn = t.report.attnLevel

/-- The mode unit is as before but for the DRYHOLD level. -/
abbrev ModeKept (s t : State) : Prop := t.mode = { s.mode with dryhold := t.mode.dryhold }

/-- A channel's record without its target and its pin-waiting flag. -/
def Channel.still (c : Channel) : Channel := { c with target := 0, pinHeld := false }

/-- The channel table, the links, the counts, and every channel's request, applied value, flight and notes
are as before. -/
abbrev ChannelsKept (s t : State) : Prop :=
  t.chan.links = s.chan.links ∧ t.chan.absorbed = s.chan.absorbed ∧
    t.chan.chans.map Channel.still = s.chan.chans.map Channel.still

/-- A channel's record without its request, its target and its pin-waiting flag. -/
def Channel.landing (c : Channel) : Channel := { c with requested := none, target := 0, pinHeld := false }

/-! ### What waits to be mirrored -/

/-- The newest value of an entry of the mirror list (R165). -/
def MirrorEntry.newest (e : MirrorEntry) : Word := e.newer.getD e.value

/-- The newest value that waits on the mirror list for a word (R165). -/
def ReportUnit.waiting (r : ReportUnit) (addr : Word) : Option Word :=
  (r.mirror.find? fun e => decide (e.addr = addr)).map MirrorEntry.newest

/-- A word has been handed on with a value. -/
abbrev Hands (addr value : Word) (t : State) : Prop := t.report.waiting addr = some value

/-- What the channels and the queue show is handed on where it has changed: the state word of every channel
of the table, and the depth of the queue (R49, R81). -/
abbrev Shown (s t : State) : Prop :=
  s.chan.chans.length ≤ 96 →
    (∀ i < 96, t.chanWord i ≠ s.chanWord i → Hands (chanWordAddr i) (t.chanWord i) t) ∧
      (t.ramp.queue.length ≠ s.ramp.queue.length → Hands 0x0054 t.depthWord t)

/-- A change of webs, bands or mode reached the channels: only the channel, ramp, web and report units and
the DRYHOLD level may have changed, no channel moved, and what is shown of them is handed on. -/
abbrev OnlyAimed (s t : State) : Prop :=
  t = { s with chan := t.chan, ramp := t.ramp, web := t.web, mode := t.mode, report := t.report } ∧
    ChannelsKept s t ∧ ReportKept s t ∧ Shown s t

/-- A count one up, that stays at 65,535 (R179). -/
def countUp (n : Nat) : Nat := if 65535 ≤ n + 1 then 65535 else n + 1

/-- The word of a count is handed on when the count has changed, and waits as before when it has not (R5,
R47). -/
abbrev HandsChange (addr : Word) (old new : Nat) (s t : State) : Prop :=
  (new ≠ old → Hands addr (wordOf new) t) ∧
    (new = old → t.report.waiting addr = s.report.waiting addr)

/-! ### Host accesses and the port (R1, R4 to R15) -/

/-- The path unit blocks a write, RESET not held (R4, R6, R8, R9). -/
abbrev IsBlocked (addr v : Word) (s : State) : Prop :=
  (addr = 0 ∧ s.command.work ≠ .none ∧ v ≠ 9) ∨ (addr = 9 ∧ 63 < v.toNat) ∨
    (0x0040 ≤ addr.toNat ∧ addr.toNat ≤ 0x01FF) ∨
    (0x0200 ≤ addr.toNat ∧ addr.toNat ≤ 0x06FF ∧
      ¬(s.mode.mode = .unprofiled ∧ s.profile.adoption = .idle ∧ s.profile.lock = false))

/-- A write was blocked: the count, the overrun flag for the command word, their words, and nothing else. -/
abbrev OnlyBlocked (addr : Word) (s t : State) : Prop :=
  t = { s with path := t.path, command := t.command, report := t.report } ∧
    t.path = { s.path with blocked := countUp s.path.blocked } ∧
    t.command = { s.command with overrun := s.command.overrun || decide (addr = 0) } ∧
    t.report = { s.report with mirror := t.report.mirror } ∧
    HandsChange 0x0052 s.path.blocked t.path.blocked s t ∧
    (addr = 0 → s.command.overrun = false → Hands 0x0044 t.modeWord t) ∧ StoresNothing s t

/-- The access that a request of the host becomes when it begins, for the requests that the path unit lets
through as they are: reads, and writes that are neither blocked nor ruled on (R1, R2, R6 to R12). -/
abbrev BeginsAs (r : HostRequest) (a : HostAccess) (s : State) : Prop :=
  (r.value = none ∧ a = ⟨r.addr, true, 0, if s.pins.resetHeld then .transparent else .read⟩) ∨
    (r.value = some a.value ∧ a.isRead = false ∧ a.addr = r.addr ∧
      ((s.pins.resetHeld = true ∧ a.cls = .transparent) ∨
        (s.pins.resetHeld = false ∧ a.cls = .control ∧ a.addr.toNat ≤ 0x003F ∧
          ¬IsBlocked a.addr a.value s) ∨
        (s.pins.resetHeld = false ∧ a.cls = .plain ∧ 0x0200 ≤ a.addr.toNat ∧
          ¬IsBlocked a.addr a.value s ∧ s.channelAt a.addr = none)))

/-- A read of the attention summary word is handed to the report unit: in READ mode it clears the causes that
its value shows and whose fresh mark is clear, and hands the new summary on (R3, R173). -/
abbrev SummaryTaken (value : Word) (s t : State) : Prop :=
  t.report = { s.report with
      latches := t.report.latches, attn := t.report.attn, mirror := t.report.mirror } ∧
    t.report.latches =
      (if s.report.ackMode = 1 then s.report.latches &&& ~~~(value.truncate 8 &&& ~~~s.report.fresh)
       else s.report.latches) ∧
    (t.report.latches = s.report.latches → t.report = s.report) ∧
    (t.report.latches ≠ s.report.latches →
      t.report.attn = t.report.attnLevel ∧ Hands 0x004F (t.report.latches.zeroExtend 16) t)

/-- A guard access was granted: the entry of an imposed write and the entry of a mirror write take their
marks, the grant of the summary word clears every fresh mark, and nothing else of the lists changes (R74,
R165, R170). -/
abbrev GuardGranted (p : PortAccess) (s t : State) : Prop :=
  t.ramp = { s.ramp with
    queue := match p with
      | .imposed i _ _ _ =>
        s.ramp.queue.map fun e => if e.channel = i then { e with granted := true } else e
      | _ => s.ramp.queue } ∧
  t.report = { s.report with
    mirror := match p with
      | .mirror addr _ _ =>
        s.report.mirror.map fun e => if e.addr = addr then { e with granted := true } else e
      | _ => s.report.mirror
    fresh := match p with
      | .mirror addr _ _ => if addr = 0x004F#16 then 0 else s.report.fresh
      | _ => s.report.fresh }

/-! ### Command results (R163) -/

/-- The three result words hold a result and are handed on; the rest of the command unit is as before
but for the overrun flag, which the taking of the command has cleared (R162). -/
abbrev ResultWords (code : Nat) (res : CommandResult) (detail1 detail2 : Nat) (work : Work)
    (s t : State) : Prop :=
  t.command = { s.command with
    work := work
    overrun := false
    result := wordOf (res.code + 256 * Nat.min code 255)
    detail1 := wordOf detail1
    detail2 := wordOf detail2 } ∧
  Hands 0x0049 t.command.result t ∧ Hands 0x004A t.command.detail1 t ∧ Hands 0x004B t.command.detail2 t

/-- A command is answered: its result, and COMMAND latched and shown. -/
abbrev Answers (code : Nat) (res : CommandResult) (detail1 detail2 : Nat) (s t : State) : Prop :=
  ResultWords code res detail1 detail2 .none s t ∧ Latches Cause.command.bit s t ∧
    Hands 0x004F t.report.summaryWord t

/-- A command taken from the command word changed the command word, the arbiter's record, the command
unit and the report unit, and nothing else. -/
abbrev OnlyAnswered (code : Word) (s t : State) : Prop :=
  t = { s with
    mem := t.mem, arbiter := ⟨.host, none⟩, command := t.command, report := t.report } ∧
  Stores 0x0000 code s t ∧ ReportKept s t ∧ SameLog s t

/-! ### Web commands (R100 to R104) -/

/-- The result that R100 gives one field of the web command word, no field holding an unused code. -/
def webOutcome (w : WebId) (code : Nat) (s : State) : WebResult :=
  if code = 0 then .none
  else if s.mode.mode = .unprofiled then .wrongMode
  else if s.webExists w = false then .noWeb
  else if code ≠ 4 ∧ (s.mode.mode = .frozen ∨ s.mode.mode = .safe) then .wrongMode
  else if (code = 1 ∧ (s.seq w).state ≠ .off) ∨ (code = 2 ∧ (s.seq w).state ≠ .threading) ∨
      (code = 3 ∧ (s.seq w).state ≠ .broken) then .wrongState
  else if (code = 2 ∨ code = 3) ∧ s.breakLevel w = true then .breakActive
  else .done

/-- RUN meets a splice line that is asserted and not latched (R102). -/
def splicesAtRun (w : WebId) (s : State) : Bool := s.spliceLevel w && !(s.seq w).spliceLatched

/-- A web's record after its field is taken, but for the settled flag and the release timer (R101 to
R104, R109). -/
def webAfter (w : WebId) (code : Nat) (s : State) : Sequencer :=
  let q := s.seq w
  if webOutcome w code s ≠ .done then q
  else
    match code with
    | 1 => { q with state := .threading }
    | 2 =>
      if splicesAtRun w s then
        { q with
          state := .splicing, breakPending := false, spliceLatched := true
          spliceTimer := some s.web.window, spliceTime := 0 }
      else { q with state := .running }
    | 3 => { q with state := .threading, trip := false }
    | _ =>
      if q.state = .off then q
      else
        { q with
          state := .off, breakPending := false, spliceLatched := false, spliceTimer := none
          trip := false }

/-- The events of one field: WEB STATE for a change of state, SPLICE START after it for a splice at RUN. -/
def webEvents (w : WebId) (code : Nat) (s u : State) : State :=
  let q := s.seq w
  if webOutcome w code s ≠ .done then u
  else
    match code with
    | 1 => recordEvent .webState w.byte 0 1 u
    | 2 =>
      let ran := recordEvent .webState w.byte 1 2 u
      if splicesAtRun w s then recordEvent .spliceStart w.byte 1 s.speed.reported ran else ran
    | 3 => recordEvent .webState w.byte 4 1 u
    | _ => if q.state = .off then u else recordEvent .webState w.byte q.state.code 0 u

/-- A web's record is as given, but for the settled flag and the release timer. -/
abbrev SeqIs (w : WebId) (q : Sequencer) (t : State) : Prop :=
  t.seq w = { q with settled := (t.seq w).settled, releaseTimer := (t.seq w).releaseTimer }

/-- Both webs' records are as before but for the settled flags and the release timers, and the rest of the
web unit is as before. -/
abbrev WebsKept (s t : State) : Prop :=
  t.web = { s.web with upper := t.web.upper, lower := t.web.lower } ∧ ∀ w, SeqIs w (s.seq w) t

/-- The place of a kind in the kind order (R22). -/
def Kind.rank : Kind → Nat
  | .burner => 0
  | .damper => 1
  | .fan => 2
  | .chillValve => 3
  | .rollTrim => 4
  | .other => 5

/-- The place of a channel's kind in the kind order, and the end for an index that is no channel. -/
def State.kindPlace (t : State) (i : Nat) : Nat := ((t.chanAt i).map fun c => c.cfg.kind.rank).getD 6

/-- One channel stands before another in kind order, ties by channel index (R22). -/
abbrev KindBefore (t : State) (i j : Nat) : Prop :=
  t.kindPlace i < t.kindPlace j ∨ (t.kindPlace i = t.kindPlace j ∧ i < j)

/-- The channels whose entries are new in `t`, in the order of the queue. -/
def State.joined (s t : State) : List Nat :=
  (t.ramp.queue.map (·.channel)).filter fun i => (pendingOf i s.ramp.queue).isNone

/-- The entries of `s` that are still there stand first, in the order they had (R72, R75, R76). -/
abbrev PlacesKept (s t : State) : Prop :=
  ((s.ramp.queue.map (·.channel)).filter fun i => (pendingOf i t.ramp.queue).isSome) <+:
    t.ramp.queue.map (·.channel)

/-- Entries keep their places, and those that a pin has added stand in kind order (R22, R72). -/
abbrev PinsJoin (s t : State) : Prop :=
  PlacesKept s t ∧
    ((s.joined t).filter fun i => (pendingOf i t.ramp.queue).any (·.pin)).Pairwise (KindBefore t)

/-- Every channel that the change of webs from `s` pins in ENFORCE or FROZEN, away from its pinned value and
pin at once or unlimited toward it, with no write of it under way, has an entry with that value, and those
that have joined stand in kind order (R35, R72). -/
abbrev PinnedAreQueued (s t : State) : Prop :=
  (∀ i c, t.chanAt i = some c → s.gov c ≠ t.gov c → (t.gov c = .off ∨ t.gov c = .broken) →
    t.mode.mode = .enforce ∨ t.mode.mode = .frozen → c.target ≠ c.applied →
    c.cfg.pinAtOnce = true ∨ c.slew = 0 → c.inFlight = false → s.entryGranted i = false →
    (pendingOf i t.ramp.queue).map (·.value) = some c.target) ∧
  PinsJoin s t

/-- SAFE was entered: every channel with no write of it under way has an entry with its safe value when it is
away from it, and none when it stands at it (R135). -/
abbrev AllAreSafed (s t : State) : Prop :=
  ∀ i c, t.chanAt i = some c → c.inFlight = false → s.entryGranted i = false →
    (c.applied ≠ c.cfg.safeValue →
      (pendingOf i t.ramp.queue).map (·.value) = some c.cfg.safeValue) ∧
    (c.applied = c.cfg.safeValue → pendingOf i t.ramp.queue = none)

/-- A channel is governed OFF or BROKEN. -/
def State.pinned (t : State) (i : Nat) : Bool :=
  (t.chanAt i).any fun c => decide (t.gov c = .off) || decide (t.gov c = .broken)

/-- A channel that was re-aimed has an entry that agrees with its target: none at its target, the target when
it is unlimited toward it, and the slew step in an entry that it had, when it is limited (R34). -/
abbrev EntryAgrees (i : Nat) (c : Channel) (s t : State) : Prop :=
  (c.target = c.applied → pendingOf i t.ramp.queue = none) ∧
    (c.target ≠ c.applied → c.slew = 0 →
      (pendingOf i t.ramp.queue).map (·.value) = some c.target) ∧
    (c.target ≠ c.applied → c.slew ≠ 0 →
      (pendingOf i t.ramp.queue).map (·.value) = (pendingOf i s.ramp.queue).map fun _ =>
        if c.applied < c.target then c.applied + Nat.min (c.target - c.applied) c.slew
        else c.applied - Nat.min (c.applied - c.target) c.slew)

/-- A change of bands reached the queue: in ENFORCE and FROZEN a channel whose target changed, with no write of
it under way, has an entry that agrees with the new target; every other channel keeps what it had. Entries keep
their places, and those that joined stand in channel index order (R34, R64). -/
abbrev BandsReachQueue (s t : State) : Prop :=
  (∀ i c, t.chanAt i = some c →
    let reaimed := (s.mode.mode = .enforce ∨ s.mode.mode = .frozen) ∧
      (s.chanAt i).map (·.target) ≠ some c.target ∧ c.inFlight = false ∧ s.entryGranted i = false
    (reaimed → EntryAgrees i c s t) ∧
      (¬reaimed → pendingOf i t.ramp.queue = pendingOf i s.ramp.queue)) ∧
  PlacesKept s t ∧ (s.joined t).Pairwise (· < ·)

/-- ENFORCE was entered: a channel at its target has no entry, one unlimited toward its target has an entry
with it, and a limited one has its slew step in its entry, if it had one. A channel with a write under way
keeps what it had. Of the entries that have joined, the pinned channels' stand first, in kind order, and the
others' in channel index order (R127). -/
abbrev QueueAgrees (s t : State) : Prop :=
  (∀ i c, t.chanAt i = some c →
    (c.inFlight = true ∨ s.entryGranted i = true →
      pendingOf i t.ramp.queue = pendingOf i s.ramp.queue) ∧
    (c.inFlight = false → s.entryGranted i = false → EntryAgrees i c s t)) ∧
  PlacesKept s t ∧
  (s.joined t).Pairwise fun i j =>
    (t.pinned i = true ∧ t.pinned j = false) ∨
      (t.pinned i = true ∧ t.pinned j = true ∧ KindBefore t i j) ∨
      (t.pinned i = false ∧ t.pinned j = false ∧ i < j)

/-! ### DRYHOLD (R143) -/

/-- DRYHOLD is asserted exactly while one of the conditions of R143 holds. -/
abbrev DryholdLaw (s : State) : Prop :=
  s.mode.dryhold = true ↔
    s.pins.resetHeld = true ∨ s.mode.mode = .unprofiled ∨ s.mode.mode = .frozen ∨ s.mode.mode = .safe ∨
      s.mode.estop = true ∨ s.test.flags.failed = true ∨ s.ramp.stallFlag = true

/-! ### Landings and follower links (R73, R84, R87, R91) -/

/-- The request that a leader's applied value gives a follower (R87, R91). -/
def followerRequest (applied : Nat) (offset : Int) : Nat :=
  let r : Int := applied + offset
  if r < 0 then 0 else if 10000 < r then 10000 else r.toNat

/-- Channel i went from one applied value to another: if that is a change, each of its followers has the
request of its last link, and every other channel keeps its request (R87). -/
abbrev RequestsFollow (i old new : Nat) (s t : State) : Prop :=
  (∀ j d, t.chan.chans[j]? = some d →
    (new = old ∨ ∀ l ∈ s.chan.links, l.enabled = true → l.leader = i → l.follower ≠ j) →
      (s.chan.chans[j]?).map (·.requested) = some d.requested) ∧
  (new ≠ old → ∀ k l, s.chan.links[k]? = some l → l.enabled = true → l.leader = i →
    (∀ m ∈ s.chan.links.drop (k + 1), m.enabled = true → m.leader = i → m.follower ≠ l.follower) →
      ∀ d, t.chanAt l.follower = some d → d.requested = some (followerRequest new l.offset))

/-- After a landing on channel i, whose record was c: away from its target it is queued with it in SAFE, when
it is unlimited, and when a pin that queues it at once came meanwhile; otherwise it has no entry (R27, R73). -/
abbrev CatchesUp (i : Nat) (c : Channel) (s t : State) : Prop :=
  ∀ d, t.chanAt i = some d →
    let pinned := c.pinHeld = true ∧ (s.gov c = .off ∨ s.gov c = .broken)
    let whole := s.mode.mode = .safe ∨
      ((s.mode.mode = .enforce ∨ s.mode.mode = .frozen) ∧ (d.slew = 0 ∨ pinned))
    (whole ∧ d.target ≠ d.applied →
      (pendingOf i t.ramp.queue).map (fun e => (e.value, e.granted)) = some (d.target, false)) ∧
    (¬(whole ∧ d.target ≠ d.applied) → pendingOf i t.ramp.queue = none)

/-- The queue has become empty: the scan-stall timer stops, and a stall that stood is cleared and shown, and
recorded after the records of `u`, with detail A 0 for a drain and 1 for a removal (R76, R77, R84). -/
abbrev StallEnds (detail : Nat) (u s t : State) : Prop :=
  t.ramp.stallTimer = none ∧ t.ramp.stallFlag = false ∧
    (s.ramp.stallFlag = true →
      SameLog (recordEvent .scanStallCleared 0 detail 0 u) t ∧ Hands 0x0055 0 t ∧ DryholdLaw t) ∧
    (s.ramp.stallFlag = false → SameLog u t)

/-! ### The tests of a profile, in their order (R145, R148 to R151) -/

/-- One test of a profile: the reason and detail 2 of its failure, and whether the profile passes it. -/
structure ProfileTest where
  reason : RejectReason
  detail : Nat
  passes : Bool

/-- The header words and the test of each, `twoWebs` as the WEBS strap reads (R145). -/
def headerTests (twoWebs : Bool) (n : Nat → Nat) : List ProfileTest :=
  let timing := fun (a : Nat) (p : Bool) => ProfileTest.mk .timingField a p
  [⟨.format, 0x0200, n 0x0200 = 0x7A01⟩,
   ⟨.count, 0x0202, n 0x0202 = 1 ∨ n 0x0202 = 2 ∧ twoWebs = true⟩,
   ⟨.count, 0x0203, 1 ≤ n 0x0203 ∧ n 0x0203 ≤ 96⟩,
   ⟨.count, 0x0204, 1 ≤ n 0x0204 ∧ n 0x0204 ≤ 16⟩,
   ⟨.count, 0x0205, n 0x0205 ≤ 16⟩] ++
  [timing 0x0206 (10 ≤ n 0x0206 ∧ n 0x0206 ≤ 1000),
   timing 0x0207 (50 ≤ n 0x0207 ∧ n 0x0207 ≤ 1000),
   timing 0x0208 (1 ≤ n 0x0208 ∧ n 0x0208 ≤ 2000),
   timing 0x0209 (1 ≤ n 0x0209 ∧ n 0x0209 ≤ 2000),
   timing 0x020A (n 0x020A ≤ 1),
   timing 0x020B (100 ≤ n 0x020B ∧ n 0x020B ≤ 10000 ∧ n 0x0207 ≤ n 0x020B),
   timing 0x020C (n 0x020C ≤ 100),
   timing 0x020D (n 0x020D = 0 ∨ 50 ≤ n 0x020D ∧ n 0x020D ≤ 30000),
   timing 0x020E (n 0x020E ≤ 1),
   timing 0x020F (n 0x020F ≤ 1),
   timing 0x0210 (100 ≤ n 0x0210 ∧ n 0x0210 ≤ 10000),
   timing 0x0211 (1 ≤ n 0x0211 ∧ n 0x0211 ≤ 250),
   timing 0x0212 (n 0x0212 ≤ 60000),
   timing 0x0213 (50 ≤ n 0x0213 ∧ n 0x0213 ≤ 60000),
   timing 0x0214 (1 ≤ n 0x0214 ∧ n 0x0214 ≤ 63),
   timing 0x0215 (n 0x0215 = 0),
   timing 0x0216 (n 0x0216 = 0),
   timing 0x0217 (n 0x0217 = 0)]

/-- The tests of channel entry i (R149). -/
def entryTests (n : Nat → Nat) (i : Nat) : List ProfileTest :=
  let addr := fun j => n (0x0220 + 8 * j)
  let flags := fun j => n (0x0221 + 8 * j)
  let enabled := fun j => decide (flags j / 32 % 2 = 1)
  [⟨.channelAddress, i, 0x1000 ≤ addr i ∧ addr i ≤ 0x7FFF⟩,
   ⟨.channelDuplicate, i, ∀ j < i, enabled i = true → enabled j = true → addr i ≠ addr j⟩,
   ⟨.channelOwner, i,
    flags i % 4 = 0 ∨ flags i % 4 = 1 ∧ n 0x0202 ≠ 1 ∨ flags i % 4 = 2⟩,
   ⟨.channelCurve, i, flags i / 256 % 16 < n 0x0204⟩,
   ⟨.channelValue, i, flags i / 4 % 8 ≤ 5 ∧ ∀ k : Fin 5, n (0x0222 + 8 * i + k) ≤ 10000⟩,
   ⟨.channelWord, i,
    n (0x0227 + 8 * i) = 0 ∧ flags i / 128 % 2 = 0 ∧ flags i / 4096 = 0⟩]

/-- The tests of curve c: the breakpoint count, then each breakpoint for its order and its values (R150). -/
def curveTests (n : Nat → Nat) (c : Nat) : List ProfileTest :=
  let count := n (0x0520 + 25 * c)
  let threshold := fun j => n (0x0521 + 25 * c + 3 * j)
  let min := fun j => n (0x0522 + 25 * c + 3 * j)
  let max := fun j => n (0x0523 + 25 * c + 3 * j)
  ⟨.curveValue, c, 1 ≤ count ∧ count ≤ 8⟩ ::
    (List.range count).flatMap fun j =>
      [⟨.curveOrder, c, if j = 0 then threshold j = 0 else threshold (j - 1) < threshold j⟩,
       ⟨.curveValue, c, threshold j ≤ 1500 ∧ min j ≤ max j ∧ max j ≤ 10000⟩]

/-- The tests of link l, none for one that is not enabled: on its own, then against the enabled links of
lower index (R151). -/
def linkTests (n : Nat → Nat) (l : Nat) : List ProfileTest :=
  let word := fun m k => n (0x06B0 + 4 * m + k)
  let enabled := fun m => decide (word m 3 % 2 = 1)
  let channel := fun i => i < n 0x0203 ∧ n (0x0221 + 8 * i) / 32 % 2 = 1
  if enabled l then
    [⟨.linkIndex, l,
      channel (word l 0) ∧ channel (word l 1) ∧ word l 0 ≠ word l 1 ∧
        (word l 2 ≤ 10000 ∨ 65536 - 10000 ≤ word l 2) ∧ word l 3 / 2 = 0⟩,
     ⟨.linkChain, l, ∀ m < l, enabled m = true →
      word l 1 ≠ word m 1 ∧ word l 1 ≠ word m 0 ∧ word l 0 ≠ word m 1⟩]
  else []

/-- Every test of a staged copy with this sum, in the order of R148; `n a` is the word at address a. -/
def profileTests (twoWebs : Bool) (sum : Nat) (n : Nat → Nat) : List ProfileTest :=
  ⟨.checkSum, sum, sum = 0⟩ :: (headerTests twoWebs n ++
    (List.range (n 0x0203)).flatMap (entryTests n) ++ (List.range (n 0x0204)).flatMap (curveTests n) ++
    (List.range (n 0x0205)).flatMap (linkTests n))

/-! ### The completion of an adoption (R154) and a change of Q (R93) -/

/-- A line has already held a level for a new Q when it takes effect, the lines being watched (R93, R94). -/
def State.heldFor (s : State) (q : Nat) (l : InputLine) : Bool :=
  !s.pins.resetHeld && (s.web.input l).qualifier.any fun h => decide (q ≤ h)

/-- Every line that has held for the new Q has made its qualified change, and the input word is handed on if
one has; every other line is as before (R93, R95, R96). -/
abbrev LinesChecked (q : Nat) (s t : State) : Prop :=
  (∀ l, t.web.input l =
    if s.heldFor q l then ⟨!(s.web.input l).level, !(s.web.input l).level, none, true⟩
    else s.web.input l) ∧
  ∀ l, s.heldFor q l = true → Hands 0x004E t.inputWord t

/-- The ESTOP line that has held for the new Q asserts, or negates (R93). -/
def State.estopAsserts (s : State) (q : Nat) : Bool := s.heldFor q .estop && !s.web.estopLine.level
def State.estopNegates (s : State) (q : Nat) : Bool := s.heldFor q .estop && s.web.estopLine.level

/-- The mode with which an adoption completes, before the lines are checked: ENFORCE goes on into SAFE while
ESTOP is asserted (R154, R136). -/
def adoptedMode (enforce : Bool) (s : State) : Mode :=
  if enforce then if s.mode.estop then .safe else .enforce else .observe

/-- The mode after the lines are checked: an ESTOP that then asserts takes ENFORCE into SAFE (R134). -/
def checkedMode (enforce : Bool) (q : Nat) (s : State) : Mode :=
  if adoptedMode enforce s = .enforce ∧ s.estopAsserts q = true then .safe else adoptedMode enforce s

/-- The events of a completion, in order (R154, R134, R135, R137). -/
def adoptionEvents (enforce : Bool) (p : Profile) (s : State) : State :=
  let mode := adoptedMode enforce s
  let u := recordEvent .profileAdopted 0 p.tag.toNat (if enforce then 2 else 1) s
  let u := if mode = .safe then recordEvent .safeStandEntered 0 2 2 u else u
  if s.estopAsserts p.qualTime then
    let u := recordEvent .estopAsserted 0 mode.code (checkedMode enforce p.qualTime s).code u
    if mode = .enforce then recordEvent .safeStandEntered 0 2 2 u else u
  else if s.estopNegates p.qualTime then recordEvent .estopReleased 0 mode.code 0 u
  else u

/-- An adoption has completed with the captured values: every unit has its part of the profile and its
starting state, BUSY is clear, DONE gives the number of enabled channels, and the lines that have held for
the profile's Q have made their changes (R154, R93). -/
abbrev AdoptionCompletes (enforce : Bool) (p : Profile) (captured : List (Option Nat)) (s t : State) :
    Prop :=
  let mode := checkedMode enforce p.qualTime s
  let asserts := s.estopAsserts p.qualTime
  t = { s with
    arbiter := { s.arbiter with port := none }
    chan := t.chan, speed := t.speed, ramp := t.ramp, web := t.web, mode := t.mode
    profile := { s.profile with adoption := .idle }
    command := t.command, report := t.report } ∧
  StoresNothing s t ∧
  t.mode = { s.mode with
    mode := mode
    causeLiveness := false
    causeEstop := decide (mode = .safe)
    livenessTimer := if mode = .safe ∨ p.period = 0 then none else some p.period
    livenessMet := t.mode.livenessMet
    livenessRenewed := false
    pulseSeen := false
    estop := (s.mode.estop || asserts) && !s.estopNegates p.qualTime
    period := p.period
    faultAction := p.faultAction
    recovery := p.recovery
    dryhold := t.mode.dryhold } ∧
  DryholdLaw t ∧
  t.chan.links = p.links ∧ t.chan.absorbed = s.chan.absorbed ∧ t.chan.chans.map (·.cfg) = p.entries ∧
  (∀ (k : Nat) c, t.chan.chans[k]? = some c →
    c.requested = none ∧ c.applied = (captured.getD k none).getD 0 ∧ c.target = c.cfg.safeValue ∧
      c.inFlight = false ∧ c.clampNote = false ∧ c.absorbNote = false ∧
      c.follower = p.links.any fun l => l.enabled && decide (l.follower = k)) ∧
  t.speed = { SpeedUnit.initial with
    active := some p.primary, gateTimer := some p.gate, curves := p.curves
    bands := p.curves.map fun _ => 0
    gate := p.gate, ppmA := p.ppmA, ppmB := p.ppmB, silence := p.silence
    hysteresis := p.hysteresis } ∧
  t.ramp.rampTimer = some p.tick ∧ t.ramp.tick = p.tick ∧ t.ramp.gapTimeout = p.gapTimeout ∧
  t.ramp.stallFlag = false ∧
  (enforce = true → ∀ k c, t.chanAt k = some c → c.applied ≠ c.cfg.safeValue →
    mode = .safe ∨ c.cfg.pinAtOnce = true ∨ c.slew = 0 →
      (pendingOf k t.ramp.queue).map (·.value) = some c.cfg.safeValue) ∧
  (mode = .enforce → (t.ramp.queue.map (·.channel)).Pairwise (KindBefore t)) ∧
  (enforce = false → t.ramp.queue = []) ∧
  t.web = { s.web with
    breakU := t.web.breakU, breakL := t.web.breakL, spliceU := t.web.spliceU
    spliceL := t.web.spliceL, estopLine := t.web.estopLine
    upper := Sequencer.initial, lower := Sequencer.initial, window := p.window
    releaseDelay := p.releaseDelay, webCount := p.webCount, qualTime := p.qualTime } ∧
  t.command = { s.command with
    work := .none
    result := wordOf (CommandResult.done.code + 256)
    detail1 := wordOf (p.entries.filter (·.enabled)).length
    detail2 := 0 } ∧
  t.report = { s.report with
    threshold := p.threshold
    tag := p.tag
    ring := t.report.ring
    lost := t.report.lost
    latches := t.report.latches
    fresh := t.report.fresh
    attn := t.report.attn
    mirror := t.report.mirror } ∧
  Latches (Cause.command.bit ||| Cause.profile.bit ||| (if asserts then Cause.estop.bit else 0)) s t ∧
  (p.entries.length ≤ 96 ∨ asserts = false →
    LinesChecked p.qualTime s t ∧ Hands 0x0056 p.tag t ∧ Hands 0x0044 t.modeWord t ∧
      Hands 0x0049 t.command.result t ∧ Hands 0x004A t.command.detail1 t ∧ Hands 0x004B 0 t ∧
      Hands 0x0054 t.depthWord t ∧ ∀ i < 96, Hands (chanWordAddr i) (t.chanWord i) t) ∧
  SameLog (adoptionEvents enforce p s) t

/-! ### The laws of the part -/

/-- A web's record (R97, R99, R110, R114, R118): TRIP and settled only while BROKEN, break-pending and the
splice timer only while SPLICING; the release timer runs exactly while TRIP is asserted on a settled web and
the delay D is above 0, with at most D left. -/
abbrev Sequencer.Lawful (delay : Nat) (q : Sequencer) : Prop :=
  (q.trip = true → q.state = .broken) ∧ (q.breakPending = true → q.state = .splicing) ∧
    (q.settled = true → q.state = .broken) ∧
    (q.releaseTimer.isSome = true ↔ q.trip = true ∧ q.settled = true ∧ 0 < delay) ∧
    (∀ n, q.releaseTimer = some n → n ≤ delay) ∧
    (q.spliceTimer.isSome = true ↔ q.state = .splicing)

abbrev WebLaw (s : State) : Prop :=
  s.web.upper.Lawful s.web.releaseDelay ∧ s.web.lower.Lawful s.web.releaseDelay

/-- The settled flag of each web is the settled condition of its counted channels (R116, R117). -/
abbrev SettledLaw (s : State) : Prop :=
  s.web.upper.settled = s.webSettled .upper ∧ s.web.lower.settled = s.webSettled .lower

/-- A source's silence timer runs exactly while the source is not silent (R51). -/
abbrev SourceState.Lawful (c : SourceState) : Prop := c.timer.isSome = !c.silent

/-- While the speed is UNKNOWN it reads 0 and every curve is at band 0; while it is VALID the active
source is not silent; the speed is at most 1,500 (R54, R55, R56). -/
abbrev SpeedLaw (s : State) : Prop :=
  s.speed.srcA.Lawful ∧ s.speed.srcB.Lawful ∧ s.speed.reported ≤ 1500 ∧
    (s.speed.valid = false → s.speed.reported = 0 ∧ ∀ k ∈ s.speed.bands, k = 0) ∧
    (s.speed.valid = true →
      (s.speed.active = some .a ∧ s.speed.srcA.silent = false) ∨
        (s.speed.active = some .b ∧ s.speed.srcB.silent = false))

/-- The ESTOP level is the qualified level of the line; the guard never stands in ENFORCE or FROZEN while
it is asserted, and in SAFE an asserted level is a cause (R96, R134, R136). -/
abbrev EstopLaw (s : State) : Prop :=
  s.mode.estop = s.web.estopLine.level ∧
    (s.mode.estop = true → s.mode.mode ≠ .enforce ∧ s.mode.mode ≠ .frozen) ∧
    (s.mode.estop = true → s.mode.mode = .safe → s.mode.causeEstop = true)

/-- Safe-stand causes only in FROZEN and SAFE, and some cause there; the liveness timer only in OBSERVE
and ENFORCE; pulse-seen only in FROZEN and SAFE (R123, R128, R129). -/
abbrev ModeLaw (s : State) : Prop :=
  (s.mode.causeLiveness = true ∨ s.mode.causeEstop = true ↔
    s.mode.mode = .frozen ∨ s.mode.mode = .safe) ∧
  (s.mode.livenessTimer.isSome = true → s.mode.mode = .observe ∨ s.mode.mode = .enforce) ∧
  (s.mode.pulseSeen = true → s.mode.mode = .frozen ∨ s.mode.mode = .safe)

/-- ATTN is asserted exactly while a latched cause has its bit set in the mask copy (R171). -/
abbrev AttnLaw (s : State) : Prop :=
  s.report.attn = true ↔ s.report.latches &&& s.report.mask.truncate 8 ≠ 0

/-- The impose queue holds at most one entry for any channel, and entries for channels only (R74). -/
abbrev QueueLaw (s : State) : Prop :=
  (s.ramp.queue.map (·.channel)).Nodup ∧ ∀ e ∈ s.ramp.queue, (s.chanAt e.channel).isSome = true

/-- The queue is empty in UNPROFILED and OBSERVE (R74, R79). -/
abbrev QuietLaw (s : State) : Prop :=
  s.mode.mode = .unprofiled ∨ s.mode.mode = .observe → s.ramp.queue = []

/-- The scan-stall timer and the stall flag only while the queue holds an entry, and one of the two then
(R82, R83, R84). -/
abbrev StallLaw (s : State) : Prop :=
  (s.ramp.stallTimer.isSome = true ∨ s.ramp.stallFlag = true) ↔ s.ramp.queue ≠ []

/-- The mirror list holds at most one entry for any word (R165). -/
abbrev MirrorLaw (s : State) : Prop := (s.report.mirror.map (·.addr)).Nodup

/-- In UNPROFILED nothing of a profile is left: no channels, no links, no curves, no running timers, no
queue, both webs OFF with W, D and the web count 0 and Q by the strap, no causes, P 0, the fault action
FREEZE, the recovery method COMMAND, E 1 and the tag 0 (R19, R29, R52, R68, R74, R86, R93, R97, R123,
R156). -/
abbrev UnprofiledLaw (s : State) : Prop :=
  s.mode.mode = .unprofiled →
    s.chan.chans = [] ∧ s.chan.links = [] ∧ s.speed = SpeedUnit.initial ∧ s.ramp = RampUnit.initial ∧
      s.web.upper = Sequencer.initial ∧ s.web.lower = Sequencer.initial ∧
      s.web.window = 0 ∧ s.web.releaseDelay = 0 ∧ s.web.webCount = 0 ∧
      s.web.qualTime = (if s.test.qual then 20 else 5) ∧
      s.mode = { ModeUnit.initial with
        estop := s.mode.estop, dryhold := s.mode.dryhold, livenessWord := s.mode.livenessWord } ∧
      s.report.threshold = 1 ∧ s.report.tag = 0

/-- Every channel's target is the one that R33 gives for the present mode, governing state, band, request
and applied value (R33, R34). -/
abbrev TargetLaw (s : State) : Prop :=
  ∀ c ∈ s.chan.chans, c.cfg.enabled = true → c.target = s.targetOf c

/-- No channel with a host write in flight has an entry that waits, and in ENFORCE and FROZEN every entry
that waits holds the channel's slew step, or its target where the channel is unlimited or a pin placed the
value; its channel is away from its target (R27, R34, R71). -/
abbrev AimLaw (s : State) : Prop :=
  ∀ e ∈ s.ramp.queue, e.granted = false → ∀ c, s.chanAt e.channel = some c →
    c.inFlight = false ∧
      (s.mode.mode = .enforce ∨ s.mode.mode = .frozen →
        c.target ≠ c.applied ∧
          (e.value = c.stepValue ∨
            (e.value = c.target ∧ (c.unlimited = true ∨ e.pin = true))))

/-- A value lies between two others, at most a distance from the first of them. -/
abbrev MovesToward (start goal : Nat) (bound : Option Nat) (v : Nat) : Prop :=
  (start ≤ v ∧ v ≤ goal ∨ goal ≤ v ∧ v ≤ start) ∧
    ∀ b, bound = some b → v ≤ start + b ∧ start ≤ v + b

/-! ### The law of the applied values (R26) and what it rests on -/

/-- Entries of a channel table: at most 96, each enabled one with a word of the output image that no other
enabled one names (R149). -/
abbrev TableLaw (entries : List ChannelEntry) : Prop :=
  entries.length ≤ 96 ∧
    (∀ e ∈ entries, e.enabled = true → 0x1000 ≤ e.addr.toNat ∧ e.addr.toNat ≤ 0x7FFF) ∧
    ((entries.filter (·.enabled)).map (·.addr)).Nodup

/-- Curves: at most 16, each with a breakpoint and with rising thresholds (R59, R150). -/
abbrev CurveLaw (curves : List (List Breakpoint)) : Prop :=
  curves.length ≤ 16 ∧ ∀ c ∈ curves, c ≠ [] ∧ c.Pairwise fun a b => a.threshold < b.threshold

/-- Links, those that are enabled: no follower is a leader, its own or another's, and no channel is the
follower of two (R151). -/
abbrev LinkLaw (links : List Link) : Prop :=
  (∀ l ∈ links, ∀ m ∈ links, l.enabled = true → m.enabled = true → l.leader ≠ m.follower) ∧
    ((links.filter (·.enabled)).map (·.follower)).Nodup

/-- Every curve has a band index, and it is one of the curve's bands (R61, R62). -/
abbrev BandLaw (s : State) : Prop :=
  s.speed.bands.length = s.speed.curves.length ∧
    ∀ c < s.speed.curves.length, s.speed.bands.getD c 0 < (s.speed.curves.getD c []).length

/-- The adoption in flight: it is the work that BUSY is set for, in UNPROFILED; each captured value is the
one its word holds, and every enabled channel below the capture position is captured (R144, R146, R152). -/
abbrev CaptureLaw (s : State) : Prop :=
  match s.profile.adoption with
  | .idle => True
  | .reading _ _ _ | .checking _ _ => s.command.work = .adoption ∧ s.mode.mode = .unprofiled
  | .capturing _ p pos captured =>
    s.command.work = .adoption ∧ s.mode.mode = .unprofiled ∧ TableLaw p.entries ∧
      CurveLaw p.curves ∧ LinkLaw p.links ∧ captured.length = p.entries.length ∧
      (∀ i e, p.entries[i]? = some e → e.enabled = true → i < pos → (captured.getD i none).isSome = true) ∧
      ∀ i e v, p.entries[i]? = some e → e.enabled = true → captured.getD i none = some v →
        wordOf v = s.readMem e.addr

/-- The host access under way is of the class that its address and the state at its beginning gave it, and
keeps it over an assertion of RESET (R1, R6, R12, R13). -/
abbrev HostLaw (s : State) : Prop :=
  (s.pins.resetHeld = true → s.profile.adoption = .idle ∧ s.mode.mode = .unprofiled ∧
    s.command.work = .none) ∧
  ∀ a, s.path.host = some a → a.isRead = false →
    match a.cls with
    | .transparent => s.mode.mode = .unprofiled ∧ s.profile.adoption = .idle
    | .read => False
    | .control => a.addr.toNat ≤ 0x003F
    | .plain => True
    | .channel => s.profile.adoption = .idle

/-- The guard access that holds the port, and the guard's lists, reach only their own words (R16). -/
abbrev PortLaw (s : State) : Prop :=
  (∀ e ∈ s.report.mirror, e.addr.toNat < 0x1000) ∧
  (∀ r ∈ s.report.ring, r.slot < 64 ∧ r.done < 4) ∧
  match s.arbiter.port with
  | none | some .host => True
  | some (.imposed i addr _ true) => ∃ c, s.chanAt i = some c ∧ c.cfg.addr = addr
  | some (.imposed _ _ _ false) =>
    s.mode.mode = .unprofiled ∧
      (match s.profile.adoption with | .capturing _ _ _ _ => False | _ => True)
  | some (.ring addr _ _) | some (.mirror addr _ _) => addr.toNat < 0x1000
  | some (.adoptionRead _ _) => True
  | some (.captureRead i addr live) =>
    live = true → ∃ enforce p captured,
      s.profile.adoption = .capturing enforce p i captured ∧ (p.entries[i]?).map (·.addr) = some addr

/-- While a profile is active, the word of every enabled channel holds the channel's applied value (R26). -/
abbrev AppliedLaw (s : State) : Prop :=
  s.mode.mode ≠ .unprofiled → ∀ c ∈ s.chan.chans, c.cfg.enabled = true →
    s.readMem c.cfg.addr = wordOf c.applied

/-- The law of the applied values with what it rests on, and the laws of the tables beside it. -/
abbrev WordLaw (s : State) : Prop :=
  AppliedLaw s ∧ TableLaw (s.chan.chans.map (·.cfg)) ∧ CurveLaw s.speed.curves ∧ BandLaw s ∧
    LinkLaw s.chan.links ∧ (s.mode.mode = .unprofiled → s.chan.chans = []) ∧ CaptureLaw s ∧ HostLaw s ∧
    PortLaw s

/-! ### The law of the guard area (R144) and what it rests on -/

/-- The words of the guard area that the staged copy takes, from 0x0200 up to below an address (R147). -/
def State.guardWords (s : State) (stop : Nat) : List Word :=
  ((List.range' 0x0200 (stop - 0x0200)).filter fun a => a < 0x0218 || 0x021F < a).map fun a =>
    s.readMem (wordOf a)

/-- The tables and the fields that the units use are those of a profile (R154). -/
abbrev UsesProfile (p : Profile) (s : State) : Prop :=
  s.chan.chans.map (·.cfg) = p.entries ∧ s.chan.links = p.links ∧ s.speed.curves = p.curves ∧
    s.speed.gate = p.gate ∧ s.speed.ppmA = p.ppmA ∧ s.speed.ppmB = p.ppmB ∧
    s.speed.silence = p.silence ∧ s.speed.hysteresis = p.hysteresis ∧ s.ramp.tick = p.tick ∧
    s.ramp.gapTimeout = p.gapTimeout ∧ s.web.window = p.window ∧ s.web.releaseDelay = p.releaseDelay ∧
    s.web.webCount = p.webCount ∧ s.web.qualTime = p.qualTime ∧ s.mode.period = p.period ∧
    s.mode.faultAction = p.faultAction ∧ s.mode.recovery = p.recovery ∧
    s.report.threshold = p.threshold ∧ s.report.tag = p.tag

/-- While a profile is active, the guard area in memory holds the tables that the part uses; the staged copy
of an adoption in flight is what the guard area holds. It rests on this: no write of the guard area is under
way but in UNPROFILED with no adoption in flight, start-up is UNPROFILED, and the guard's own accesses reach
only their own words (R144, R16). -/
abbrev GuardLaw (s : State) : Prop :=
  (s.mode.mode ≠ .unprofiled → UsesProfile (profileOf (s.guardWords 0x06F1)) s) ∧
  (match s.profile.adoption with
    | .idle | .checking _ _ => True
    | .reading _ pos ws => 0x0200 ≤ pos ∧ pos ≤ 0x06F0 ∧ ws = s.guardWords pos
    | .capturing _ p _ _ => p = profileOf (s.guardWords 0x06F1)) ∧
  (∀ a, s.path.host = some a → a.isRead = false → 0x0200 ≤ a.addr.toNat → a.addr.toNat ≤ 0x06FF →
    s.mode.mode = .unprofiled ∧ s.profile.adoption = .idle) ∧
  (s.command.work = .startUp → s.mode.mode = .unprofiled) ∧
  (∀ e ∈ s.report.mirror, e.addr.toNat < 0x0200) ∧
  match s.arbiter.port with
  | some (.imposed _ addr _ _) => 0x1000 ≤ addr.toNat
  | some (.ring addr _ _) | some (.mirror addr _ _) => addr.toNat < 0x0200
  | some (.adoptionRead addr true) => ∃ enforce ws, s.profile.adoption = .reading enforce addr.toNat ws
  | _ => True

/-! ### The law of a lower web that does not exist (R31, R97) and what it rests on -/

/-- A lower web that does not exist stands OFF; under RESET and in start-up the guard is UNPROFILED with no
adoption in flight and the lower web stands OFF (R12, R97, R174). -/
abbrev LowerWebLaw (s : State) : Prop :=
  (s.webExists .lower = false → s.web.lower.state = .off) ∧
    (s.pins.resetHeld = true ∨ s.command.work = .startUp →
      s.mode.mode = .unprofiled ∧ s.profile.adoption = .idle ∧ s.web.lower.state = .off)

/-! ### What the status words hold (11.3) -/

/-- The bits of a word are those listed, lowest first, and 0 beyond the list. -/
abbrev BitsAre (w : Word) (bits : List Bool) : Prop := ∀ n < 16, w.getLsbD n = bits.getD n false

/-- What every status word holds, field by field (11.1, 11.3, R49, R58, R62, R81, R99, R179). -/
abbrev StatusWordsHold (s : State) : Prop :=
  let result : WebResult → Nat := fun r => match r with
    | .none => 0 | .done => 1 | .wrongState => 2 | .breakActive => 3 | .wrongMode => 4 | .noWeb => 5
    | .badCode => 6
  BitsAre s.strapWord [s.test.webs, s.test.qual] ∧
  BitsAre s.testWord ([s.test.flags.channel, s.test.flags.curveLink, s.test.flags.queue,
    s.test.flags.report] ++ List.replicate 11 false ++ [s.test.ranToEnd]) ∧
  s.modeWord.toNat % 8 = (match s.mode.mode with
    | .unprofiled => 0 | .observe => 1 | .enforce => 2 | .frozen => 3 | .safe => 4) ∧
  BitsAre (s.modeWord >>> 3)
    [false, decide (s.command.work ≠ .none), s.profile.lock, s.command.overrun] ∧
  BitsAre s.causesWord [s.mode.causeLiveness, s.mode.causeEstop, false, false, s.mode.pulseSeen, false,
    false, false, s.mode.dryhold] ∧
  (∀ w,
    (s.webWord w).toNat % 8 = (match (s.seq w).state with
      | .off => 0 | .threading => 1 | .running => 2 | .splicing => 3 | .broken => 4) ∧
    BitsAre (s.webWord w >>> 3) [false, s.webExists w, (s.seq w).breakPending, (s.seq w).spliceLatched,
      (s.seq w).trip, (s.seq w).settled, (s.seq w).releaseTimer.isSome]) ∧
  s.webResultWord.toNat % 256 = result s.web.resultU ∧
  s.webResultWord.toNat / 256 = result s.web.resultL ∧
  (s.speed.reported ≤ 1500 → s.speedWord.toNat = s.speed.reported) ∧
  BitsAre s.speedStatusWord [s.speed.valid, decide (s.speed.active = some .b), !s.speed.srcA.silent,
    !s.speed.srcB.silent] ∧
  BitsAre s.inputWord [s.web.breakU.level, s.web.breakL.level, s.web.spliceU.level, s.web.spliceL.level,
    s.web.estopLine.level, false, false, false, s.web.breakU.delta, s.web.breakL.delta,
    s.web.spliceU.delta, s.web.spliceL.delta, s.web.estopLine.delta] ∧
  s.report.summaryWord.toNat = s.report.latches.toNat ∧
  (s.ramp.queue.length ≤ 96 → s.depthWord.toNat = s.ramp.queue.length) ∧
  s.stallWord.toNat = (if s.ramp.stallFlag then 1 else 0) ∧
  (∀ c, s.speed.bands.getD c 0 ≤ 7 → (s.bandWord c).toNat = s.speed.bands.getD c 0) ∧
  (∀ i, s.chanAt i = none → s.chanWord i = 0) ∧
  ∀ i c, s.chanAt i = some c →
    (s.chanWord i).toNat % 2 = 1 ∧
    (s.chanWord i).toNat / 2 % 4 = (match s.gov c with
      | .off => 0 | .threading => 1 | .running => 2 | .broken => 3) ∧
    BitsAre (s.chanWord i >>> 3) [decide (c.applied ≠ c.target), (pendingOf i s.ramp.queue).isSome,
      c.requested.isSome, c.clampNote, c.absorbNote]

end Sys2Proof.Machine
end

