-- ==== Sys2Proof/Certificates/Slice0/Obligations.lean ====
section
/-! DEFINITION. The statements for the provers. `Gives c s P` says that the command c answers a next state
with P from s; `t = { s with … }` says which units alone may differ, so the units not listed are unchanged. -/

open Sys2Proof Sys2Proof.Machine

/-! ### The step, reset and memory -/

/-- A step takes the command at the front of the queue and runs it on the queue's rest. On an empty queue it
is one millisecond (the model's choice, log 1), unless a RESTART is under way (log 11): memory, accesses,
channels and lists stay, running timers count down to 0, a timing qualifier and the time of a splice, up to
W, count up. -/
def Obligations.StepRunsTheFrontCommand : Prop :=
  (∀ (c : Instr) (rest : List Instr) (s : State),
    step { s with pending := c :: rest } = exec c { s with pending := rest }) ∧
  ∀ s : State, s.pending = [] → s.command.work ≠ .restart → ∃ t, step s = .next t ∧
    t = { s with
      speed := { s.speed with
        srcA := { s.speed.srcA with timer := s.speed.srcA.timer.map (· - 1), renewed := false }
        srcB := { s.speed.srcB with timer := s.speed.srcB.timer.map (· - 1), renewed := false }
        gateTimer := s.speed.gateTimer.map (· - 1) }
      ramp := { s.ramp with
        rampTimer := s.ramp.rampTimer.map (· - 1), stallTimer := s.ramp.stallTimer.map (· - 1) }
      web := { s.web with
        breakU := t.web.breakU, breakL := t.web.breakL, spliceU := t.web.spliceU
        spliceL := t.web.spliceL, estopLine := t.web.estopLine
        upper := t.web.upper, lower := t.web.lower }
      mode := { s.mode with
        livenessTimer := s.mode.livenessTimer.map (· - 1), livenessMet := false
        livenessRenewed := false } } ∧
    (∀ l, t.web.input l =
      { s.web.input l with qualifier := (s.web.input l).qualifier.map (· + 1) }) ∧
    (∀ w, t.seq w = { s.seq w with
      spliceTimer := (s.seq w).spliceTimer.map (· - 1)
      spliceTime :=
        if (s.seq w).spliceTimer.isSome then
          if s.web.window ≤ (s.seq w).spliceTime then s.web.window else (s.seq w).spliceTime + 1
        else (s.seq w).spliceTime
      releaseTimer := (s.seq w).releaseTimer.map (· - 1) })

/-- Under hardware reset: UNPROFILED with no causes, no channels, an empty queue, mirror list and ring
write list, counts and indices 0, E 1, no latch, ATTN and the trips negated, DRYHOLD asserted, the lock
clear, BUSY and the overrun flag clear, the record at GUARD, every fail flag set; and every law that this
file states as kept by every step holds. -/
def Obligations.ResetHoldsTheStatedValues : Prop :=
  let s := State.reset
  s.pins.resetHeld = true ∧ s.mode.mode = .unprofiled ∧ s.mode.causeLiveness = false ∧
    s.mode.causeEstop = false ∧ s.mode.livenessTimer = none ∧ s.mode.pulseSeen = false ∧
    s.mode.estop = false ∧ s.mode.dryhold = true ∧ s.chan.chans = [] ∧ s.chan.links = [] ∧
    s.chan.absorbed = 0 ∧ s.path.blocked = 0 ∧ s.report.lost = 0 ∧ s.ramp.queue = [] ∧
    s.ramp.stallFlag = false ∧ s.report.mirror = [] ∧ s.report.ring = [] ∧ s.report.writeIndex = 0 ∧
    s.report.readIndex = 0 ∧ s.report.threshold = 1 ∧ s.report.latches = 0 ∧ s.report.mask = 0 ∧
    s.report.timestamp = 0 ∧ s.report.attn = false ∧ s.web.upper = Sequencer.initial ∧
    s.web.lower = Sequencer.initial ∧ s.speed.valid = false ∧ s.speed.reported = 0 ∧
    s.speed.active = none ∧ s.profile.adoption = .idle ∧ s.profile.lock = false ∧
    s.command.work = .none ∧ s.command.overrun = false ∧ s.command.arg1 = 0 ∧
    s.arbiter.record = .guard ∧ s.test.flags = ⟨true, true, true, true⟩ ∧ s.test.ranToEnd = false ∧
    s.mem.wf ∧ WebLaw s ∧ SettledLaw s ∧ SpeedLaw s ∧ EstopLaw s ∧ ModeLaw s ∧ DryholdLaw s ∧ AttnLaw s ∧
    QueueLaw s ∧ QuietLaw s ∧ StallLaw s ∧ MirrorLaw s ∧ UnprofiledLaw s ∧ LowerWebLaw s ∧ TargetLaw s ∧
    AimLaw s ∧ WordLaw s ∧ GuardLaw s

/-! ### Laws that every step keeps -/

/-- A word written to memory reads back, every other word reads as before, and every step keeps the
memory's canonical form. -/
def Obligations.StepKeepsMemoryCanonical : Prop :=
  (∀ (s : State) (addr v : Word), s.mem.wf → Stores addr v s (s.writeMem addr v)) ∧
  ∀ s t : State, s.mem.wf → step s = .next t → t.mem.wf

/-- The laws of a web's record: TRIP only while BROKEN, break-pending only while SPLICING, the release timer
exactly while a settled web's TRIP is asserted and D is above 0; and the settled flag as the settled
condition of the counted channels. A release timer that starts, starts at D. -/
def Obligations.StepKeepsWebLaws : Prop :=
  (∀ s t : State, WebLaw s → SettledLaw s → step s = .next t → WebLaw t ∧ SettledLaw t) ∧
    ∀ s t : State, WebLaw s → SettledLaw s → step s = .next t → ∀ w n,
      (s.seq w).releaseTimer = none → (t.seq w).releaseTimer = some n → n = t.web.releaseDelay

/-- While the speed is UNKNOWN every curve is at band 0; VALID has an active source that pulses. -/
def Obligations.StepKeepsSpeedLaw : Prop :=
  ∀ s t : State, SpeedLaw s → step s = .next t → SpeedLaw t

/-- Safe-stand causes exactly in FROZEN and SAFE, the liveness timer and pulse-seen only in their modes, and
the guard never in ENFORCE or FROZEN while ESTOP is asserted. -/
def Obligations.StepKeepsModeLaws : Prop :=
  ∀ s t : State, ModeLaw s → EstopLaw s → step s = .next t → ModeLaw t ∧ EstopLaw t

/-- DRYHOLD is asserted exactly while one of its five conditions holds. -/
def Obligations.StepKeepsDryholdLaw : Prop :=
  ∀ s t : State, DryholdLaw s → step s = .next t → DryholdLaw t

/-- ATTN is asserted exactly while an unmasked cause is latched, and the mirror list holds at most one
entry for any word. -/
def Obligations.StepKeepsReportLaws : Prop :=
  ∀ s t : State, AttnLaw s → MirrorLaw s → step s = .next t → AttnLaw t ∧ MirrorLaw t

/-- The impose queue holds at most one entry for any channel, is empty in UNPROFILED and OBSERVE, and the
scan-stall timer or the stall flag stands exactly while it is not empty. -/
def Obligations.StepKeepsQueueLaws : Prop :=
  ∀ s t : State, QueueLaw s → QuietLaw s → StallLaw s → step s = .next t →
    QueueLaw t ∧ QuietLaw t ∧ StallLaw t

/-- In UNPROFILED nothing of a profile is left: no channels, links, curves, queue or running timers, both webs
OFF, no causes, and P, the fault action, the recovery method, W, D, Q, the web count, E and the tag as with
no profile. A lower web that does not exist stands OFF. -/
def Obligations.StepKeepsUnprofiledAndOneWebLaws : Prop :=
  (∀ s t : State, UnprofiledLaw s → step s = .next t → UnprofiledLaw t) ∧
    ∀ s t : State, LowerWebLaw s → step s = .next t → LowerWebLaw t

/-- Every channel's target is at every moment the one that R33 gives. -/
def Obligations.StepKeepsTargetLaw : Prop :=
  ∀ s t : State, TargetLaw s → step s = .next t → TargetLaw t

/-- In ENFORCE and FROZEN every waiting entry holds the channel's slew step, or its target where the
channel is unlimited or a pin placed the value. -/
def Obligations.StepKeepsAimLaw : Prop :=
  ∀ s t : State, AimLaw s → TargetLaw s → QueueLaw s → QuietLaw s → step s = .next t → AimLaw t

/-- While a profile is active, the word of every enabled channel holds the channel's applied value, every
curve's band index is one of its bands, and the guard area in memory holds the tables that the part uses. -/
def Obligations.StepKeepsAppliedValuesInMemory : Prop :=
  (∀ s t : State, s.mem.wf → WordLaw s → step s = .next t → WordLaw t) ∧
    ∀ s t : State, s.mem.wf → WordLaw s → GuardLaw s → step s = .next t → GuardLaw t

/-! ### The memory port -/

/-- PORT_GRANT with the host's next access, one that waits, one held behind the bus that begins now, or a
fresh read: on a held port it waits. It wins a free port alone or against the record GUARD, a write then
holding the port and a read returning what memory holds. Otherwise the guard's access is granted, with its
marks; so too with no access of the host. A held write that is blocked needs no port, and a held write of a
channel word is ruled on as HOST_CHANNEL_WRITE is. Two points are the model's choice: that held accesses begin
here (log 6), and that a plain read is this row's operand and completes with its grant (log 7). -/
def Obligations.PortGrantArbitrates : Prop :=
  (∀ (s : State) (read : Option Word) (a : HostAccess) (rest : List HostRequest),
    let requests := s.path.held ++ (read.map fun addr => ⟨addr, none⟩).toList
    (s.path.host = some a ∧ rest = requests) ∨
      (s.path.host = none ∧ rest = requests.tail ∧ ∃ r, requests.head? = some r ∧ BeginsAs r a s) →
    let u := { s with path := { s.path with host := some a, held := rest } }
    (s.arbiter.port ≠ none → Gives (.portGrant read) s (· = u)) ∧
    (s.arbiter.port = none → guardOffer s = none ∨ s.arbiter.record = .guard →
      (a.isRead = false →
        Gives (.portGrant read) s (· = { u with arbiter := ⟨.host, some .host⟩ })) ∧
      (a.isRead = true →
        Gives (.portGrant read) s fun t =>
          t = { s with
            path := { s.path with host := none, held := rest, hostData := s.readMem a.addr }
            arbiter := ⟨.host, none⟩
            report := t.report } ∧
          (s.pins.resetHeld = false ∧ a.cls = .read ∧ a.addr = 0x004F#16 →
            SummaryTaken (s.readMem 0x004F) s t) ∧
          (¬(s.pins.resetHeld = false ∧ a.cls = .read ∧ a.addr = 0x004F#16) → t.report = s.report))) ∧
    (∀ p, s.arbiter.port = none → guardOffer s = some p → s.arbiter.record = .host →
      Gives (.portGrant read) s fun t =>
        t = { u with arbiter := ⟨.guard, some p⟩, ramp := t.ramp, report := t.report } ∧
          GuardGranted p s t ∧ StoresNothing s t)) ∧
  (∀ s : State, s.path.host = none → s.path.held = [] →
    (s.arbiter.port ≠ none ∨ guardOffer s = none → Gives (.portGrant none) s (· = s)) ∧
    (∀ p, s.arbiter.port = none → guardOffer s = some p →
      Gives (.portGrant none) s fun t =>
        t = { s with arbiter := ⟨.guard, some p⟩, ramp := t.ramp, report := t.report } ∧
          GuardGranted p s t ∧ StoresNothing s t)) ∧
  ∀ (s : State) (addr v : Word) (rest : List HostRequest), s.path.host = none →
    s.path.held = ⟨addr, some v⟩ :: rest → s.pins.resetHeld = false →
    (s.arbiter.port ≠ none → IsBlocked addr v s →
      Gives (.portGrant none) s (OnlyBlocked addr { s with path := { s.path with held := rest } })) ∧
    (0x1000 ≤ addr.toNat ∧ addr.toNat ≤ 0x7FFF → s.channelAt addr ≠ none →
      Gives (.hostChannelWrite addr v)
        { s with path := { s.path with held := [] }, arbiter := ⟨s.arbiter.record, some .host⟩ }
        fun t =>
          let begun := { t with path := { t.path with held := rest }, arbiter := s.arbiter }
          (s.arbiter.port ≠ none → Gives (.portGrant none) s (· = begun)) ∧
            (t.path.host ≠ none ∨ rest = [] →
              Gives (.portGrant none) begun fun u => exec (.portGrant none) s = .next u))

/-- The guard offers the first access it has in the order of R15: the oldest waiting entry of the queue
while GAP is asserted, the next word of the ring write list, the oldest waiting entry of the mirror list,
the next read of an adoption in flight; with none of these, and under RESET, none. GAP's edges are
GAP_ASSERT and GAP_NEGATE, which change the pin alone. -/
def Obligations.GuardOffersInOrder : Prop :=
  (∀ s : State, s.pins.resetHeld = true → guardOffer s = none) ∧
  (∀ s e c, s.pins.resetHeld = false → s.pins.gap = true →
    s.ramp.queue.find? (fun e => !e.granted) = some e → s.chanAt e.channel = some c →
      guardOffer s = some (.imposed e.channel c.cfg.addr (wordOf e.value) true)) ∧
  (∀ s : State, s.pins.resetHeld = false →
    s.pins.gap = false ∨ s.ramp.queue.find? (fun e => !e.granted) = none →
    (∀ r rest w, s.report.ring = r :: rest →
      [r.word0, r.word1, r.word2, r.word3][r.done]? = some w →
      guardOffer s = some (.ring (wordOf (0x0100 + 4 * r.slot + r.done)) w true)) ∧
    (s.report.ring = [] →
      (∀ e, s.report.mirror.find? (fun e => !e.granted) = some e →
        guardOffer s = some (.mirror e.addr e.value true)) ∧
      (s.report.mirror.find? (fun e => !e.granted) = none →
        (∀ enforce pos ws, s.profile.adoption = .reading enforce pos ws →
          guardOffer s = some (.adoptionRead (wordOf pos) true)) ∧
        (∀ enforce p pos captured e, s.profile.adoption = .capturing enforce p pos captured →
          p.entries[pos]? = some e → guardOffer s = some (.captureRead pos e.addr true)) ∧
        (s.profile.adoption = .idle → guardOffer s = none)))) ∧
  (∀ s : State, Gives .gapAssert s (· = { s with pins := { s.pins with gap := true } })) ∧
  (∀ s : State, Gives .gapNegate s (· = { s with pins := { s.pins with gap := false } }))

/-- RING_WRITE_COMPLETION: the word is stored and the port freed. After words 0 to 2 of the oldest record
the next word is due; after word 3 the record leaves, the write index advances and is handed on, and EVENTS
is latched, marked fresh and shown when the unread count comes from below E to E or above. A write whose
record is gone lands and changes nothing else. -/
def Obligations.RingWriteLands : Prop :=
  (∀ (s : State) (addr v : Word), s.mem.wf → s.arbiter.port = some (.ring addr v false) →
    Gives .ringWriteCompletion s fun t =>
      t = { s with mem := t.mem, arbiter := { s.arbiter with port := none } } ∧ Stores addr v s t) ∧
  ∀ (s : State) (addr v : Word) (r : RingRecord) (rest : List RingRecord), s.mem.wf →
    s.arbiter.port = some (.ring addr v true) → s.report.ring = r :: rest →
    Gives .ringWriteCompletion s fun t =>
      t = { s with mem := t.mem, arbiter := { s.arbiter with port := none }, report := t.report } ∧
        Stores addr v s t ∧
        t.report = { s.report with
          ring := t.report.ring
          writeIndex := t.report.writeIndex
          latches := t.report.latches
          fresh := t.report.fresh
          attn := t.report.attn
          mirror := t.report.mirror } ∧
        (r.done < 3 →
          t.report = { s.report with ring := { r with done := r.done + 1 } :: rest }) ∧
        (3 ≤ r.done →
          t.report.ring = rest ∧ t.report.writeIndex = (s.report.writeIndex + 1) % 64 ∧
            Hands 0x0050 (wordOf t.report.writeIndex) t ∧
            (s.report.unread < s.report.threshold ∧ s.report.threshold ≤ t.report.unread →
              Latches Cause.events.bit s t ∧ Hands 0x004F t.report.summaryWord t) ∧
            (¬(s.report.unread < s.report.threshold ∧ s.report.threshold ≤ t.report.unread) →
              SameLatches s t))

/-- MIRROR_WRITE_COMPLETION: the word is stored, the port freed, the granted entry leaves, and a newer
value joins the tail as a new entry. A write whose list is gone lands and changes nothing else. -/
def Obligations.MirrorWriteLands : Prop :=
  (∀ (s : State) (addr v : Word), s.mem.wf → s.arbiter.port = some (.mirror addr v false) →
    Gives .mirrorWriteCompletion s fun t =>
      t = { s with mem := t.mem, arbiter := { s.arbiter with port := none } } ∧ Stores addr v s t) ∧
  ∀ (s : State) (addr v : Word) (l₁ l₂ : List MirrorEntry) (e : MirrorEntry), s.mem.wf → MirrorLaw s →
    s.arbiter.port = some (.mirror addr v true) → s.report.mirror = l₁ ++ e :: l₂ →
    e.addr = addr → e.granted = true →
    Gives .mirrorWriteCompletion s fun t =>
      t = { s with
        mem := t.mem
        arbiter := { s.arbiter with port := none }
        report := { s.report with
          mirror := l₁ ++ l₂ ++ (e.newer.map fun w => ⟨addr, w, false, none⟩).toList } } ∧
      Stores addr v s t

/-- An event of n records joins the ring write list whole, in the slots that follow, when at most 63 slots
are then taken; otherwise it is dropped whole and the lost count rises by n, up to 65,535. -/
def Obligations.EventsAreAppendedWhole : Prop :=
  ∀ (s : State) (head : Word) (details : List (Word × Word)),
    let r := s.report
    let taken := r.unread + r.ring.length
    let t := appendEvent head details s
    (taken + details.length ≤ 63 →
      t = { s with report := { r with ring := t.report.ring } } ∧
        t.report.ring = r.ring ++ details.mapIdx fun k d =>
          ⟨(r.writeIndex + r.ring.length + k) % 64, head, d.1, d.2, wordOf r.timestamp, 0⟩) ∧
    (63 < taken + details.length →
      t = { s with report := { r with lost := t.report.lost, mirror := t.report.mirror } } ∧
        t.report.lost = (if 65535 ≤ r.lost + details.length then 65535 else r.lost + details.length) ∧
        Hands 0x0051 (wordOf t.report.lost) t)

/-! ### Host accesses -/

/-- While RESET is held, every write of the host, whatever its row, is performed unchanged on its word and
handed to no unit. -/
def Obligations.HeldResetIsTransparent : Prop :=
  ∀ (i : Instr) (s : State) (addr v : Word), i.write = some (addr, v) → s.mem.wf →
    s.pins.resetHeld = true → HostFree s →
    Gives i s fun t => t = { s with mem := t.mem, arbiter := ⟨.host, none⟩ } ∧ Stores addr v s t

/-- An access that does not get the port at once waits with its class and stores nothing yet: a write of the
control area, a plain write, a write under RESET, a read. A channel-word write is ruled on as if the port
were free, and if it is to be performed it waits (a mirror entry is granted only while its write holds the
port, R165). An access made while the host's bus is held waits behind what holds it (the model's choice,
log 6). -/
def Obligations.ContendedWriteWaits : Prop :=
  let contested := fun (s : State) =>
    s.arbiter.port ≠ none ∨ (guardOffer s ≠ none ∧ s.arbiter.record = .host)
  (∀ (i : Instr) (s : State) (addr v : Word), i.write = some (addr, v) →
    let waits := fun (cls : AccessClass) =>
      Gives i s (· = { s with path := { s.path with host := some ⟨addr, false, v, cls⟩ } })
    (BusFree s → contested s →
      (s.pins.resetHeld = true → waits .transparent) ∧
      (s.pins.resetHeld = false →
        (addr.toNat ≤ 0x003F → ¬IsBlocked addr v s → waits .control) ∧
        (0x0200 ≤ addr.toNat → ¬IsBlocked addr v s → s.channelAt addr = none → waits .plain) ∧
        (0x1000 ≤ addr.toNat ∧ addr.toNat ≤ 0x7FFF → s.channelAt addr ≠ none →
          (s.arbiter.port = none → ∀ e ∈ s.report.mirror, e.granted = false) →
          Gives i { s with arbiter := ⟨.guard, none⟩ } fun t =>
            Gives i s (· = { t with arbiter := s.arbiter })))) ∧
    (s.path.host ≠ none →
      Gives i s (· = { s with path := { s.path with held := s.path.held ++ [⟨addr, some v⟩] } }))) ∧
  ∀ s : State,
    (BusFree s → contested s →
      Gives .attentionSummaryRead s (· = { s with
        path := { s.path with
          host := some ⟨0x004F, true, 0, if s.pins.resetHeld then .transparent else .read⟩ } })) ∧
    (s.path.host ≠ none →
      Gives .attentionSummaryRead s (· = { s with
        path := { s.path with held := s.path.held ++ [⟨0x004F, none⟩] } }))

/-- A blocked write, whatever its row: no word is stored, the blocked count rises and a count that changed is
handed on, a blocked command-word write sets the overrun flag, and nothing else changes. The port is not
needed. -/
def Obligations.BlockedWriteOnlyCounts : Prop :=
  ∀ (i : Instr) (s : State) (addr v : Word), i.write = some (addr, v) → BusFree s →
    s.pins.resetHeld = false → IsBlocked addr v s → Gives i s (OnlyBlocked addr s)

/-- PLAIN_WRITE: a write to general memory or the input image, to an open guard area, or to an output word
that is no channel word, is performed and hands nothing to any unit; but in a capture pass a write to the
word of a channel already captured sets its captured value. -/
def Obligations.PlainWriteOnlyStores : Prop :=
  ∀ (s : State) (addr v : Word), s.mem.wf → HostFree s → s.pins.resetHeld = false →
    0x0200 ≤ addr.toNat →
    (addr.toNat ≤ 0x06FF →
      s.mode.mode = .unprofiled ∧ s.profile.adoption = .idle ∧ s.profile.lock = false) →
    s.channelAt addr = none →
    ((∀ e p k l, s.profile.adoption = .capturing e p k l →
        ∀ j, p.entries.findIdx? (fun e => e.enabled && decide (e.addr = addr)) = some j →
          l.getD j none = none) →
      Gives (.plainWrite addr v) s fun t =>
        t = { s with mem := t.mem, arbiter := ⟨.host, none⟩ } ∧ Stores addr v s t) ∧
    (∀ enforce p k l j x, s.profile.adoption = .capturing enforce p k l →
      p.entries.findIdx? (fun e => e.enabled && decide (e.addr = addr)) = some j →
      l[j]? = some (some x) →
      Gives (.plainWrite addr v) s fun t =>
        t = { s with
          mem := t.mem
          arbiter := ⟨.host, none⟩
          profile := { s.profile with adoption := .capturing enforce p k (l.set j (some v.toNat)) } } ∧
        Stores addr v s t)

/-- LIVENESS_WRITE: the timer restarts at P in OBSERVE and ENFORCE when P is above 0, pulse-seen sets in
FROZEN and SAFE, and UNPROFILED sees no effect; no event, no cause. That a timer that ran is marked as
restarted is the model's own (log 2). -/
def Obligations.LivenessWriteRestartsOrIsSeen : Prop :=
  ∀ (s : State) (v : Word), s.mem.wf → HostFree s → s.pins.resetHeld = false →
    Gives (.livenessWrite v) s fun t =>
      t = { s with mem := t.mem, arbiter := ⟨.host, none⟩, mode := t.mode, report := t.report } ∧
        Stores 0x0005 v s t ∧ ReportKept s t ∧ SameLog s t ∧ SameLatches s t ∧
        t.mode = { s.mode with
          livenessWord := v
          livenessTimer :=
            if s.mode.mode = .observe ∨ s.mode.mode = .enforce then
              if 0 < s.mode.period then some s.mode.period else none
            else s.mode.livenessTimer
          livenessRenewed :=
            if s.mode.mode = .observe ∨ s.mode.mode = .enforce then
              decide (0 < s.mode.period) && s.mode.livenessTimer.isSome
            else s.mode.livenessRenewed
          pulseSeen := s.mode.pulseSeen || decide (s.mode.mode = .frozen) || decide (s.mode.mode = .safe) } ∧
        (t.mode.pulseSeen = s.mode.pulseSeen → t.report = s.report) ∧
        (t.mode.pulseSeen ≠ s.mode.pulseSeen → Hands 0x0045 t.causesWord t)

/-- CONTROL_WRITE, ATTENTION_MASK_WRITE and EVENT_READ_INDEX_WRITE store their word and set their copy:
argument 1, the acknowledge mode, the mask with ATTN derived from it, the read index with the guard's own
waiting write of 0x0009 removed. The host's own words and code 0 set nothing. -/
def Obligations.ControlWordsSetTheirCopies : Prop :=
  ∀ (s : State) (addr v : Word), s.mem.wf → HostFree s → s.pins.resetHeld = false →
    (isOtherControlWrite addr v = true → (addr = 0 → s.command.work = .none) →
      Gives (.controlWrite addr v) s fun t =>
        t = { s with
          mem := t.mem
          arbiter := ⟨.host, none⟩
          command := if addr = 1 then { s.command with arg1 := v } else s.command
          report := if addr = 7 then { s.report with ackMode := v } else s.report } ∧
        Stores addr v s t) ∧
    (Gives (.attentionMaskWrite v) s fun t =>
      t = { s with
        mem := t.mem
        arbiter := ⟨.host, none⟩
        report := { s.report with
          mask := v, attn := decide (s.report.latches &&& v.truncate 8 ≠ 0) } } ∧
      Stores 0x0006 v s t) ∧
    (v.toNat ≤ 63 →
      Gives (.eventReadIndexWrite v) s fun t =>
        t = { s with
          mem := t.mem
          arbiter := ⟨.host, none⟩
          report := { s.report with readIndex := v.toNat, mirror := t.report.mirror } } ∧
        Stores 0x0009 v s t ∧
        (∀ a, a ≠ 0x0009#16 → t.report.waiting a = s.report.waiting a) ∧
        ∀ e ∈ t.report.mirror, e.addr = 0x0009#16 → e.granted = true ∧ e.newer = none)

/-- ACKNOWLEDGE and ATTENTION_SUMMARY_READ: in WRITE mode the write clears the latched causes it names and
the read none; in READ mode the read clears the causes its value shows whose fresh mark is clear and the
write none. A clearing hands the summary on and ATTN follows. -/
def Obligations.AcknowledgesClearCauses : Prop :=
  (∀ (s : State) (v : Word), s.mem.wf → HostFree s → s.pins.resetHeld = false → AttnLaw s →
    Gives (.acknowledge v) s fun t =>
      t = { s with mem := t.mem, arbiter := ⟨.host, none⟩, report := t.report } ∧ Stores 0x0008 v s t ∧
        t.report = { s.report with
          ackWord := v, latches := t.report.latches, attn := t.report.attn, mirror := t.report.mirror } ∧
        t.report.latches =
          (if s.report.ackMode = 1 then s.report.latches else s.report.latches &&& ~~~(v.truncate 8)) ∧
        AttnLaw t ∧
        (t.report.latches = s.report.latches → t.report.mirror = s.report.mirror) ∧
        (t.report.latches ≠ s.report.latches → Hands 0x004F (t.report.latches.zeroExtend 16) t)) ∧
  ∀ s : State, HostFree s → s.pins.resetHeld = false → AttnLaw s →
    Gives .attentionSummaryRead s fun t =>
      let value := s.readMem 0x004F
      t = { s with path := { s.path with hostData := value }, arbiter := ⟨.host, none⟩, report := t.report } ∧
        t.report = { s.report with
          latches := t.report.latches, attn := t.report.attn, mirror := t.report.mirror } ∧
        t.report.latches =
          (if s.report.ackMode = 1 then s.report.latches &&& ~~~(value.truncate 8 &&& ~~~s.report.fresh)
           else s.report.latches) ∧
        AttnLaw t ∧
        (t.report.latches = s.report.latches → t.report.mirror = s.report.mirror) ∧
        (t.report.latches ≠ s.report.latches → Hands 0x004F (t.report.latches.zeroExtend 16) t)

/-! ### Channels -/

/-- The governing state of a SHARED channel by the states of both webs. Beside R31, the governing state of an
UPPER and of a LOWER channel by the state of its web (R30). -/
def Obligations.SharedChannelFollowsBothWebs : Prop :=
  ∀ s : State, (s.webExists .lower = false → s.web.lower.state = .off) →
    let u := s.web.upper.state
    let l := s.web.lower.state
    let g := s.governing .shared
    let runs := fun w : WebState => w = .running ∨ w = .splicing
    (∀ w, let own := s.governing (match w with | .upper => .upper | .lower => .lower)
      let st := (s.seq w).state
      (own = .off ↔ st = .off) ∧ (own = .threading ↔ st = .threading) ∧ (own = .running ↔ runs st) ∧
        (own = .broken ↔ st = .broken)) ∧
    (g = .off ↔ u = .off ∧ l = .off) ∧
    (g = .running ↔ runs u ∨ runs l) ∧
    (g = .threading ↔ ¬(runs u ∨ runs l) ∧ (u = .threading ∨ l = .threading)) ∧
    (g = .broken ↔ ¬(u = .off ∧ l = .off) ∧ (u = .off ∨ u = .broken) ∧ (l = .off ∨ l = .broken)) ∧
    (s.webExists .lower = false → g = u.governs)

/-- The target of a channel by mode, governing state, band and base. The band is band k of the channel's
curve, k being that curve's band index (R24, R60). -/
def Obligations.TargetIsByModeAndGoverningState : Prop :=
  ∀ (s : State) (c : Channel),
    let base := c.requested.getD c.applied
    let g := s.governing c.cfg.owner
    (s.mode.mode = .enforce ∨ s.mode.mode = .observe →
      (g = .off → s.targetOf c = c.cfg.safeValue) ∧ (g = .broken → s.targetOf c = c.cfg.breakValue) ∧
      ∀ curve k b, s.speed.curves[c.cfg.curve]? = some curve → s.speed.bands[c.cfg.curve]? = some k →
        curve[k]? = some b →
        let hi := if c.cfg.threadingCap < b.max then c.cfg.threadingCap else b.max
        let lo := if hi < b.min then hi else b.min
        (g = .threading → s.targetOf c = if base < lo then lo else if hi < base then hi else base) ∧
        (g = .running →
          s.targetOf c = if base < b.min then b.min else if b.max < base then b.max else base)) ∧
    (s.mode.mode = .safe → s.targetOf c = c.cfg.safeValue) ∧
    (s.mode.mode = .frozen →
      (g = .off → s.targetOf c = c.cfg.safeValue) ∧ (g = .broken → s.targetOf c = c.cfg.breakValue) ∧
      (g = .threading ∨ g = .running → s.targetOf c = c.applied))

/-- HOST_CHANNEL_WRITE in OBSERVE: performed with the host's value; the request, the target, the notes and
the flight of that channel change, RANGE and CLAMP NOTE are recorded, and nothing is queued. -/
def Obligations.ObserveWriteIsPerformedAsWritten : Prop :=
  ∀ (s : State) (addr v : Word) (i : Nat) (c : Channel), HostNext s → s.pins.resetHeld = false →
    TargetLaw s → s.mode.mode = .observe → 0x1000 ≤ addr.toNat ∧ addr.toNat ≤ 0x7FFF →
    s.channelAt addr = some i → s.chan.chans[i]? = some c →
    let requested := if c.follower then c.requested else some (Nat.min v.toNat 10000)
    let target := s.targetOf { c with requested := requested }
    let ranged := if 10000 < v.toNat then recordEvent .range c.cfg.owner.byte i v.toNat s else s
    let noted := if v.toNat ≠ target ∧ c.clampNote = false then
        recordClampNote c.cfg.owner i true v.toNat target ranged else ranged
    Gives (.hostChannelWrite addr v) s fun t =>
      t = { s with
        path := { s.path with host := some ⟨addr, false, v, .channel⟩ }
        arbiter := ⟨.host, some .host⟩
        chan := { s.chan with
          chans := s.chan.chans.set i { c with
            requested := requested
            target := target
            inFlight := true
            clampNote := decide (v.toNat ≠ target)
            absorbNote := false } }
        report := t.report } ∧
      ReportKept s t ∧ SameLatches s t ∧ SameLog noted t ∧ Shown s t

/-- HOST_CHANNEL_WRITE absorbed: a follower or a pinned channel in ENFORCE, any channel in FROZEN and SAFE.
The request is kept unless the channel is a follower, the absorbed count rises and a count that changed is
handed on, RANGE and one ABSORB NOTE are recorded, no word is stored, nothing is queued and the target
stays. -/
def Obligations.AbsorbedWriteIsKeptAsRequest : Prop :=
  ∀ (s : State) (addr v : Word) (i : Nat) (c : Channel) (reason : AbsorbReason), BusFree s →
    s.pins.resetHeld = false → TargetLaw s → s.chan.chans.length ≤ 96 →
    0x1000 ≤ addr.toNat ∧ addr.toNat ≤ 0x7FFF →
    s.channelAt addr = some i → s.chan.chans[i]? = some c →
    (s.mode.mode = .enforce ∧ c.follower = true ∧ reason = .follower) ∨
      (s.mode.mode = .enforce ∧ c.follower = false ∧ (s.gov c = .off ∨ s.gov c = .broken) ∧
        reason = .pinned) ∨
      (s.mode.mode = .frozen ∧ reason = .frozen) ∨ (s.mode.mode = .safe ∧ reason = .safe) →
    let ranged := if 10000 < v.toNat then recordEvent .range c.cfg.owner.byte i v.toNat s else s
    let noted := if c.absorbNote = false then
        recordEvent .absorbNote c.cfg.owner.byte (i + 256 * reason.code) v.toNat ranged else ranged
    Gives (.hostChannelWrite addr v) s fun t =>
      t = { s with
        chan := { s.chan with
          absorbed := t.chan.absorbed
          chans := s.chan.chans.set i { c with
            requested := if c.follower then c.requested else some (Nat.min v.toNat 10000)
            absorbNote := true } }
        report := t.report } ∧
      t.chan.absorbed = countUp s.chan.absorbed ∧
      StoresNothing s t ∧ ReportKept s t ∧ SameLatches s t ∧ SameLog noted t ∧
      HandsChange 0x0053 s.chan.absorbed t.chan.absorbed s t ∧ Shown s t

/-- HOST_CHANNEL_WRITE in ENFORCE under THREADING or RUNNING, at the target or unlimited toward it: it is
performed with the target and the channel's waiting entry is removed; a removal that empties the queue ends
the scan stall with detail A 1, after the notes of the write (log 41). -/
def Obligations.EnforceWriteIsPerformedWithTheTarget : Prop :=
  ∀ (s : State) (addr v : Word) (i : Nat) (c : Channel), HostNext s → s.pins.resetHeld = false →
    s.mode.mode = .enforce → 0x1000 ≤ addr.toNat ∧ addr.toNat ≤ 0x7FFF →
    s.channelAt addr = some i → s.chan.chans[i]? = some c → c.follower = false →
    s.gov c = .threading ∨ s.gov c = .running →
    let asked := { c with requested := some (Nat.min v.toNat 10000) }
    let aimed := { asked with target := s.targetOf asked }
    aimed.target = aimed.applied ∨ aimed.slew = 0 →
    let ranged := if 10000 < v.toNat then recordEvent .range c.cfg.owner.byte i v.toNat s else s
    let noted := if v.toNat ≠ aimed.target ∧ c.clampNote = false then
        recordClampNote c.cfg.owner i false v.toNat aimed.target ranged else ranged
    Gives (.hostChannelWrite addr v) s fun t =>
      t = { s with
        path := { s.path with host := some ⟨addr, false, wordOf aimed.target, .channel⟩ }
        arbiter := ⟨.host, some .host⟩
        chan := { s.chan with
          chans := s.chan.chans.set i { aimed with
            inFlight := true
            clampNote := decide (v.toNat ≠ aimed.target)
            absorbNote := false } }
        ramp := t.ramp
        mode := t.mode
        report := t.report } ∧
      ModeKept s t ∧ ReportKept s t ∧ SameLatches s t ∧ Shown s t ∧
      t.ramp = { s.ramp with
        queue :=
          if s.entryGranted i then s.ramp.queue
          else s.ramp.queue.filter fun e => decide (e.channel ≠ i)
        stallTimer := t.ramp.stallTimer
        stallFlag := t.ramp.stallFlag } ∧
      (s.ramp.queue ≠ [] ∧ t.ramp.queue = [] → StallEnds 1 noted s t) ∧
      (s.ramp.queue = [] ∨ t.ramp.queue ≠ [] → t.ramp.stallTimer = s.ramp.stallTimer ∧
        t.ramp.stallFlag = s.ramp.stallFlag ∧ SameLog noted t) ∧
      (t.ramp.stallFlag = s.ramp.stallFlag → t.mode = s.mode)

/-- HOST_CHANNEL_WRITE in ENFORCE under THREADING or RUNNING, limited toward its target: held for the ramp.
No word is stored, a waiting entry takes the slew step toward the new target in its place, and a channel
without one is not queued. -/
def Obligations.LimitedWriteIsHeldForTheRamp : Prop :=
  ∀ (s : State) (addr v : Word) (i : Nat) (c : Channel), BusFree s → s.pins.resetHeld = false →
    s.mode.mode = .enforce → 0x1000 ≤ addr.toNat ∧ addr.toNat ≤ 0x7FFF →
    s.channelAt addr = some i → s.chan.chans[i]? = some c → c.follower = false → c.inFlight = false →
    s.gov c = .threading ∨ s.gov c = .running →
    let asked := { c with requested := some (Nat.min v.toNat 10000) }
    let aimed := { asked with target := s.targetOf asked }
    aimed.target ≠ aimed.applied ∧ aimed.slew ≠ 0 →
    let ranged := if 10000 < v.toNat then recordEvent .range c.cfg.owner.byte i v.toNat s else s
    let noted := if v.toNat ≠ aimed.target ∧ c.clampNote = false then
        recordClampNote c.cfg.owner i false v.toNat aimed.target ranged else ranged
    Gives (.hostChannelWrite addr v) s fun t =>
      t = { s with
        chan := { s.chan with
          chans := s.chan.chans.set i { aimed with
            clampNote := decide (v.toNat ≠ aimed.target)
            absorbNote := false } }
        ramp := { s.ramp with
          queue :=
            if s.entryGranted i then s.ramp.queue
            else s.ramp.queue.map fun e =>
              if e.channel = i then { e with value := aimed.stepValue, pin := false } else e }
        report := t.report } ∧
      StoresNothing s t ∧ ReportKept s t ∧ SameLatches s t ∧ SameLog noted t ∧ Shown s t

/-- HOST_WRITE_COMPLETION: the word takes the value and the port and the bus are freed. On a channel word the
channel's applied value takes the value, its followers take their requests, a channel-word write ends its
flight and the channel is queued if it is to catch up; a control write is handed to its unit; a write of a
word that was captured sets the captured value; any other does nothing else. No web changes state and no cause
is latched. While RESET is held a write of any class is stored alone (R12). A command that was under way when
RESET asserted and lands in the start-up that followed is not taken (the model's choice, log 40). -/
def Obligations.HostWriteLands : Prop :=
  ∀ (s : State) (addr v : Word) (cls : AccessClass), s.mem.wf → s.arbiter.port = some .host →
    s.path.host = some ⟨addr, false, v, cls⟩ →
    (∀ i c, s.pins.resetHeld = false → cls = .channel ∨ cls = .plain → s.channelAt addr = some i →
      s.chan.chans[i]? = some c →
      Gives .hostWriteCompletion s fun t =>
        t = { s with
          mem := t.mem
          path := { s.path with host := none }
          arbiter := { s.arbiter with port := none }
          chan := t.chan, ramp := t.ramp, web := t.web, mode := t.mode, report := t.report } ∧
        Stores addr v s t ∧ WebsKept s t ∧ ModeKept s t ∧ ReportKept s t ∧ SameLatches s t ∧
        (s.ramp.stallFlag = false → SameLog s t) ∧ Shown s t ∧
        t.chan.links = s.chan.links ∧ t.chan.absorbed = s.chan.absorbed ∧
        t.chan.chans.map Channel.landing = (s.chan.chans.set i { c with
          applied := v.toNat, inFlight := c.inFlight && decide (cls = .plain) }).map Channel.landing ∧
        RequestsFollow i c.applied v.toNat s t ∧
        (cls = .channel → LinkLaw s.chan.links → pendingOf i s.ramp.queue = none → CatchesUp i c s t)) ∧
    (s.pins.resetHeld = false → cls = .control →
      Gives .hostWriteCompletion s (· = handControl addr v ({ s with
        path := { s.path with host := none }
        arbiter := { s.arbiter with port := none } }.writeMem addr v))) ∧
    (s.pins.resetHeld = false → cls = .control → addr = 0 → v ≠ 0 → v ≠ 9 → s.command.work ≠ .none →
      Gives .hostWriteCompletion s fun t =>
        t = { s with
          mem := t.mem
          path := { s.path with host := none }
          arbiter := { s.arbiter with port := none }
          command := { s.command with overrun := true }
          report := { s.report with mirror := t.report.mirror } } ∧
        Stores 0x0000 v s t ∧ (s.command.overrun = false → Hands 0x0044 t.modeWord t)) ∧
    (s.pins.resetHeld = true ∨ cls = .transparent ∨ (cls = .channel ∧ s.channelAt addr = none) ∨
        (cls = .plain ∧ s.channelAt addr = none ∧
          ∀ e p k l, s.profile.adoption = .capturing e p k l →
            ∀ j, p.entries.findIdx? (fun e => e.enabled && decide (e.addr = addr)) = some j →
              l.getD j none = none) →
      Gives .hostWriteCompletion s fun t =>
        t = { s with
          mem := t.mem
          path := { s.path with host := none }
          arbiter := { s.arbiter with port := none } } ∧
        Stores addr v s t) ∧
    (∀ enforce p k l j x, s.pins.resetHeld = false → cls = .plain → s.channelAt addr = none →
      s.profile.adoption = .capturing enforce p k l →
      p.entries.findIdx? (fun e => e.enabled && decide (e.addr = addr)) = some j →
      l[j]? = some (some x) →
      Gives .hostWriteCompletion s fun t =>
        t = { s with
          mem := t.mem
          path := { s.path with host := none }
          arbiter := { s.arbiter with port := none }
          profile := { s.profile with adoption := .capturing enforce p k (l.set j (some v.toNat)) } } ∧
        Stores addr v s t)

/-! ### The ramp, the impose queue and the links -/

/-- IMPOSED_WRITE_COMPLETION: the word takes the entry's value, the port is freed, the channel's applied
value takes the value and no other channel's does, and its followers take their requests; its entry has
left, and it is queued with its target if it is to catch up. A drain that leaves the queue empty ends the
scan stall. No web changes state and no cause is latched. A write whose work was emptied lands and changes
nothing else. -/
def Obligations.ImposedWriteLands : Prop :=
  ∀ (s : State) (i : Nat) (addr v : Word), s.mem.wf → QueueLaw s →
    (∀ c, s.arbiter.port = some (.imposed i addr v true) → s.chanAt i = some c →
      Gives .imposedWriteCompletion s fun t =>
        t = { s with
          mem := t.mem
          arbiter := { s.arbiter with port := none }
          chan := t.chan, ramp := t.ramp, web := t.web, mode := t.mode, report := t.report } ∧
        Stores addr v s t ∧ WebsKept s t ∧ ModeKept s t ∧ ReportKept s t ∧ SameLatches s t ∧
        (s.ramp.stallFlag = false → SameLog s t) ∧ Shown s t ∧
        t.chan.links = s.chan.links ∧ t.chan.absorbed = s.chan.absorbed ∧
        t.chan.chans.map Channel.landing =
          (s.chan.chans.set i { c with applied := v.toNat }).map Channel.landing ∧
        RequestsFollow i c.applied v.toNat s t ∧
        (s.entryGranted i = true → LinkLaw s.chan.links → c.inFlight = false → CatchesUp i c s t) ∧
        (LinkLaw s.chan.links → ∀ e, s.ramp.queue = [e] → e.channel = i → e.granted = true →
          t.ramp.queue = [] → StallEnds 0 s s t) ∧
        (s.entryGranted i = true → LinkLaw s.chan.links → ∀ e ∈ t.ramp.queue, e.channel = i →
          e.granted = false ∧ (t.chanAt i).map (·.target) = some e.value)) ∧
    (s.arbiter.port = some (.imposed i addr v false) →
      Gives .imposedWriteCompletion s fun t =>
        t = { s with mem := t.mem, arbiter := { s.arbiter with port := none } } ∧ Stores addr v s t)

/-- In ENFORCE an imposed write that the guard offers moves the channel from its applied value toward its
target without passing it: by its slew step, the smaller of the distance and the slew, or to its target
exactly, which only an unlimited channel or a value placed by a pin may. -/
def Obligations.OfferedWriteKeepsTheSlew : Prop :=
  ∀ (s : State) (i : Nat) (addr v : Word), AimLaw s → s.mode.mode = .enforce →
    guardOffer s = some (.imposed i addr v true) →
    ∃ c e, s.chanAt i = some c ∧ e ∈ s.ramp.queue ∧ e.channel = i ∧ addr = c.cfg.addr ∧
      v = wordOf e.value ∧
      MovesToward c.applied c.target (if c.slew = 0 ∨ e.pin then none else some c.slew) e.value ∧
      (e.value = (if c.applied < c.target then c.applied + Nat.min (c.target - c.applied) c.slew
          else c.applied - Nat.min (c.applied - c.target) c.slew) ∨
        (e.value = c.target ∧ (c.slew = 0 ∨ e.pin = true)))

/-- RAMP_TICK: the timer restarts at T. In OBSERVE and SAFE nothing else happens. In ENFORCE and FROZEN no
record changes; each channel that the tick passes over keeps its entry, and each other has an entry with
its target if it moves whole and its slew step if not, new entries at the tail in channel index order. -/
def Obligations.RampTickQueuesSteps : Prop :=
  ∀ s : State, s.ramp.rampTimer.isSome = true → QueueLaw s →
    (¬(s.mode.mode = .enforce ∨ s.mode.mode = .frozen) →
      Gives .rampTick s (· = { s with ramp := { s.ramp with rampTimer := some s.ramp.tick } })) ∧
    (s.mode.mode = .enforce ∨ s.mode.mode = .frozen →
      let passed := fun (i : Nat) (c : Channel) =>
        c.applied = c.target ∨ c.inFlight = true ∨ s.entryGranted i = true ∨
          (s.mode.mode = .frozen ∧ (s.gov c = .threading ∨ s.gov c = .running))
      Gives .rampTick s fun t =>
        t = { s with ramp := t.ramp, report := t.report } ∧ StoresNothing s t ∧ ReportKept s t ∧
        SameLog s t ∧ SameLatches s t ∧ Shown s t ∧
        t.ramp = { s.ramp with
          rampTimer := some s.ramp.tick
          queue := t.ramp.queue
          stallTimer :=
            if s.ramp.queue = [] ∧ t.ramp.queue ≠ [] then some s.ramp.gapTimeout
            else s.ramp.stallTimer } ∧
        (∀ i c, s.chanAt i = some c → passed i c →
          pendingOf i t.ramp.queue = pendingOf i s.ramp.queue) ∧
        (∀ i c, s.chanAt i = some c → ¬passed i c →
          (pendingOf i t.ramp.queue).map (·.value) = some
            (if c.slew = 0 ∨ (c.cfg.pinAtOnce = true ∧ (s.gov c = .off ∨ s.gov c = .broken) ∧
                (pendingOf i s.ramp.queue).map (fun e => (e.value, e.pin)) = some (c.target, true))
             then c.target
             else if c.applied < c.target then c.applied + Nat.min (c.target - c.applied) c.slew
             else c.applied - Nat.min (c.applied - c.target) c.slew)) ∧
        ∃ joined : List Nat, joined.Pairwise (· < ·) ∧
          t.ramp.queue.map (·.channel) = s.ramp.queue.map (·.channel) ++ joined)

/-- A pin batch: a channel with a waiting entry keeps its place and takes its target, the others join the
tail in kind order, channels of one kind by index, with their targets, each marked as placed by a pin or not,
and no channel's applied value or request changes. -/
def Obligations.PinBatchKeepsPlacesAndKindOrder : Prop :=
  ∀ (s : State) (pin : Bool) (ids : List Nat), QueueLaw s → ids.Nodup →
    (∀ i ∈ ids, ∃ c, s.chanAt i = some c ∧ c.inFlight = false ∧ s.entryGranted i = false) →
    let t := applyBatch pin ids s
    let waits := fun i => (pendingOf i s.ramp.queue).isSome
    let joined := kindOrder.flatMap fun k =>
      ids.filter fun i => !waits i && decide ((s.chanAt i).map (·.cfg.kind) = some k)
    t = { s with ramp := t.ramp, report := t.report } ∧ Shown s t ∧
      t.ramp.queue.map (·.channel) = s.ramp.queue.map (·.channel) ++ joined ∧
      (ids.Pairwise (· < ·) → joined.Pairwise (KindBefore s)) ∧
      (∀ i c, i ∈ ids → s.chanAt i = some c →
        (pendingOf i t.ramp.queue).map (fun e => (e.value, e.pin)) = some (c.target, pin)) ∧
      ∀ i, i ∉ ids → pendingOf i t.ramp.queue = pendingOf i s.ramp.queue

/-- SCAN_STALL: the event with the depth and the oldest entry's channel, the stall flag set and shown, STALL
latched, DRYHOLD asserted, the timer stopped; the queue, the mode and the channels are as before. -/
def Obligations.ScanStallIsReported : Prop :=
  ∀ (s : State) (e : QueueEntry) (rest : List QueueEntry), s.ramp.stallTimer.isSome = true →
    s.ramp.queue = e :: rest →
    Gives .scanStall s fun t =>
      t = { s with
        ramp := { s.ramp with stallTimer := none, stallFlag := true }
        mode := { s.mode with dryhold := true }
        report := t.report } ∧
      ReportKept s t ∧ SameLog (recordEvent .scanStall 0 (rest.length + 1) e.channel s) t ∧
      Latches Cause.stall.bit s t ∧ Hands 0x004F t.report.summaryWord t ∧
      (s.ramp.stallFlag = false → Hands 0x0055 1 t)

/-! ### Profiles -/

/-- A staged copy passes the checks exactly when its sum is 0, every header word is in its range, and every
entry, curve and link within the counts passes every test of its kind. One that fails gives the reason and
detail 2 of the first test that it fails, in the order of R148 to R151. The profile it holds has each field
from its word. -/
def Obligations.ProfilePassesExactlyWhenEveryTestPasses : Prop :=
  ∀ (twoWebs : Bool) (ws : List Word),
    let w := stagedAt ws
    let n := fun a => (w a).toNat
    let entryAddr := fun i => n (0x0220 + 8 * i)
    let flags := fun i => n (0x0221 + 8 * i)
    let enabled := fun i => flags i / 32 % 2 = 1
    let threshold := fun c j => n (0x0521 + 25 * c + 3 * j)
    let link := fun l k => n (0x06B0 + 4 * l + k)
    let linked := fun l => link l 3 % 2 = 1
    checkProfile twoWebs ws =
      ((profileTests twoWebs (ws.foldl (· + ·) 0).toNat n).find? fun t => !t.passes).map
        (fun t => (t.reason, t.detail)) ∧
    (checkProfile twoWebs ws = none ↔
      ws.foldl (· + ·) 0 = 0 ∧ n 0x0200 = 0x7A01 ∧
      (n 0x0202 = 1 ∨ n 0x0202 = 2 ∧ twoWebs = true) ∧ (1 ≤ n 0x0203 ∧ n 0x0203 ≤ 96) ∧
      (1 ≤ n 0x0204 ∧ n 0x0204 ≤ 16) ∧ n 0x0205 ≤ 16 ∧ (10 ≤ n 0x0206 ∧ n 0x0206 ≤ 1000) ∧
      (50 ≤ n 0x0207 ∧ n 0x0207 ≤ 1000) ∧ (1 ≤ n 0x0208 ∧ n 0x0208 ≤ 2000) ∧
      (1 ≤ n 0x0209 ∧ n 0x0209 ≤ 2000) ∧ n 0x020A ≤ 1 ∧
      (100 ≤ n 0x020B ∧ n 0x020B ≤ 10000 ∧ n 0x0207 ≤ n 0x020B) ∧ n 0x020C ≤ 100 ∧
      (n 0x020D = 0 ∨ 50 ≤ n 0x020D ∧ n 0x020D ≤ 30000) ∧ n 0x020E ≤ 1 ∧ n 0x020F ≤ 1 ∧
      (100 ≤ n 0x0210 ∧ n 0x0210 ≤ 10000) ∧ (1 ≤ n 0x0211 ∧ n 0x0211 ≤ 250) ∧ n 0x0212 ≤ 60000 ∧
      (50 ≤ n 0x0213 ∧ n 0x0213 ≤ 60000) ∧ (1 ≤ n 0x0214 ∧ n 0x0214 ≤ 63) ∧
      n 0x0215 = 0 ∧ n 0x0216 = 0 ∧ n 0x0217 = 0 ∧
      (∀ i < n 0x0203,
        0x1000 ≤ entryAddr i ∧ entryAddr i ≤ 0x7FFF ∧
        (∀ j < i, enabled i → enabled j → entryAddr i ≠ entryAddr j) ∧
        (flags i % 4 = 0 ∨ flags i % 4 = 1 ∧ n 0x0202 ≠ 1 ∨ flags i % 4 = 2) ∧
        flags i / 256 % 16 < n 0x0204 ∧ flags i / 4 % 8 ≤ 5 ∧
        (∀ k, 2 ≤ k → k ≤ 6 → n (0x0220 + 8 * i + k) ≤ 10000) ∧
        n (0x0227 + 8 * i) = 0 ∧ flags i / 128 % 2 = 0 ∧ flags i / 4096 = 0) ∧
      (∀ c < n 0x0204,
        1 ≤ n (0x0520 + 25 * c) ∧ n (0x0520 + 25 * c) ≤ 8 ∧
        ∀ j < n (0x0520 + 25 * c),
          (j = 0 → threshold c 0 = 0) ∧ (∀ k, j = k + 1 → threshold c k < threshold c j) ∧
          threshold c j ≤ 1500 ∧ n (0x0522 + 25 * c + 3 * j) ≤ n (0x0523 + 25 * c + 3 * j) ∧
          n (0x0523 + 25 * c + 3 * j) ≤ 10000) ∧
      ∀ l < n 0x0205, linked l →
        link l 0 < n 0x0203 ∧ link l 1 < n 0x0203 ∧ enabled (link l 0) ∧ enabled (link l 1) ∧
        link l 0 ≠ link l 1 ∧ (link l 2 ≤ 10000 ∨ 65536 - 10000 ≤ link l 2) ∧ link l 3 / 2 = 0 ∧
        ∀ m < l, linked m →
          link l 1 ≠ link m 1 ∧ link l 1 ≠ link m 0 ∧ link l 0 ≠ link m 1) ∧
    let p := profileOf ws
    p.tag = w 0x0201 ∧ p.webCount = n 0x0202 ∧ p.entries.length = n 0x0203 ∧ p.curves.length = n 0x0204 ∧
      p.links.length = n 0x0205 ∧ p.tick = n 0x0206 ∧ p.gate = n 0x0207 ∧ p.ppmA = n 0x0208 ∧
      p.ppmB = n 0x0209 ∧ p.primary = (if n 0x020A = 1 then Source.b else .a) ∧ p.silence = n 0x020B ∧
      p.hysteresis = n 0x020C ∧ p.period = n 0x020D ∧
      p.faultAction = (if n 0x020E = 1 then FaultAction.safe else .freeze) ∧
      p.recovery = (if n 0x020F = 1 then RecoveryMethod.resetOnly else .command) ∧ p.window = n 0x0210 ∧
      p.qualTime = n 0x0211 ∧ p.releaseDelay = n 0x0212 ∧ p.gapTimeout = n 0x0213 ∧
      p.threshold = n 0x0214 ∧
      (∀ i e, p.entries[i]? = some e →
        e.addr = w (0x0220 + 8 * i) ∧
        (flags i % 4 = 0 → e.owner = .upper) ∧ (flags i % 4 = 1 → e.owner = .lower) ∧
        (flags i % 4 = 2 → e.owner = .shared) ∧
        (∀ k, (k, flags i / 4 % 8) ∈ [(Kind.burner, 0), (.damper, 1), (.fan, 2), (.chillValve, 3),
          (.rollTrim, 4), (.other, 5)] → e.kind = k) ∧
        e.enabled = decide (enabled i) ∧ e.pinAtOnce = decide (flags i / 64 % 2 = 1) ∧
        e.curve = flags i / 256 % 16 ∧ e.slewUp = n (0x0222 + 8 * i) ∧
        e.slewDown = n (0x0223 + 8 * i) ∧ e.safeValue = n (0x0224 + 8 * i) ∧
        e.breakValue = n (0x0225 + 8 * i) ∧ e.threadingCap = n (0x0226 + 8 * i)) ∧
      (∀ c points, p.curves[c]? = some points →
        points.length = n (0x0520 + 25 * c) ∧
        ∀ j b, points[j]? = some b →
          b.threshold = threshold c j ∧ b.min = n (0x0522 + 25 * c + 3 * j) ∧
            b.max = n (0x0523 + 25 * c + 3 * j)) ∧
      ∀ l k, p.links[l]? = some k →
        k.leader = link l 0 ∧ k.follower = link l 1 ∧
          k.offset = (if link l 2 < 32768 then (link l 2 : Int) else (link l 2 : Int) - 65536) ∧
          k.enabled = decide (linked l)

/-- ADOPT: refused by the first failing check, or accepted with BUSY set, PENDING and the read pass begun at
0x0200; an acceptance latches nothing. -/
def Obligations.AdoptIsCheckedThenReads : Prop :=
  ∀ s : State, s.mem.wf → TakesCommands s →
    let refusal :=
      if s.mode.mode ≠ .unprofiled then some CommandResult.wrongMode
      else if 1 < s.command.arg1.toNat then some .badArgument
      else if s.test.flags.failed then some .selfTestFailed
      else if s.command.arg1 = 0 ∧ s.profile.lock = true then some .locked
      else none
    (∀ res, refusal = some res →
      Gives .adopt s fun t => OnlyAnswered 1 s t ∧ Answers 1 res 0 0 s t) ∧
    (refusal = none →
      Gives .adopt s fun t =>
        t = { s with
          mem := t.mem
          arbiter := ⟨.host, none⟩
          profile := { s.profile with
            adoption := .reading (decide (s.command.arg1 = 1)) 0x0200 [] }
          command := t.command
          report := t.report } ∧
        Stores 0x0000 1 s t ∧ ReportKept s t ∧ SameLog s t ∧ SameLatches s t ∧
        ResultWords 1 .pending 0 0 .adoption s t ∧ Hands 0x0044 t.modeWord t)

/-- ADOPTION_READ_COMPLETION: below 0x06F0 the word joins the staged copy, unless it is one of 0x0218 to
0x021F, and the position advances; at 0x06F0 a copy that fails a check is rejected with the reason and its
detail, and one that passes goes to the first enabled channel's capture, or with no enabled channel becomes
active at once, each line that has already held for the profile's Q making its qualified change. That these
changes come at the end of the claim is log 25. A read whose adoption was abandoned only frees the port. -/
def Obligations.AdoptionReadsThenChecks : Prop :=
  (∀ (s : State) (addr : Word), s.arbiter.port = some (.adoptionRead addr false) →
    Gives .adoptionReadCompletion s (· = { s with arbiter := { s.arbiter with port := none } })) ∧
  ∀ (s : State) (addr : Word) (enforce : Bool) (pos : Nat) (ws : List Word),
    s.arbiter.port = some (.adoptionRead addr true) → s.profile.adoption = .reading enforce pos ws →
    let v := s.readMem addr
    let ws' := ws ++ [v]
    let p := profileOf ws'
    (pos ≠ 0x06F0 →
      Gives .adoptionReadCompletion s (· = { s with
        arbiter := { s.arbiter with port := none }
        profile := { s.profile with
          adoption := .reading enforce (pos + 1) (if 0x0218 ≤ pos ∧ pos ≤ 0x021F then ws else ws') } })) ∧
    (∀ reason detail, pos = 0x06F0 → checkProfile s.test.webs ws' = some (reason, detail) →
      Gives .adoptionReadCompletion s fun t =>
        t = { s with
          arbiter := { s.arbiter with port := none }
          profile := { s.profile with adoption := .idle }
          command := { s.command with
            work := .none
            result := wordOf (CommandResult.rejected.code + 256)
            detail1 := wordOf reason.code
            detail2 := wordOf detail }
          report := t.report } ∧
        ReportKept s t ∧ SameLog (recordEvent .profileRejected 0 reason.code detail s) t ∧
        Latches (Cause.command.bit ||| Cause.profile.bit) s t ∧ Hands 0x0049 t.command.result t ∧
        Hands 0x004A t.command.detail1 t ∧ Hands 0x004B t.command.detail2 t) ∧
    (∀ i e, pos = 0x06F0 → checkProfile s.test.webs ws' = none → p.entries[i]? = some e →
      e.enabled = true → (∀ j < i, ∀ d, p.entries[j]? = some d → d.enabled = false) →
      Gives .adoptionReadCompletion s (· = { s with
        arbiter := { s.arbiter with port := none }
        profile := { s.profile with
          adoption := .capturing enforce p i (List.replicate p.entries.length none) } })) ∧
    (pos = 0x06F0 → checkProfile s.test.webs ws' = none → (∀ e ∈ p.entries, e.enabled = false) →
      Gives .adoptionReadCompletion s
        (AdoptionCompletes enforce p (List.replicate p.entries.length none) s))

/-- CAPTURE_READ_COMPLETION: the value read is captured. With an enabled channel left the pass goes on to
it; after the last the profile is active: every unit has its part and its starting state, BUSY is clear,
DONE gives the number of enabled channels, and each line that has already held for the profile's Q makes its
qualified change, an ESTOP that asserts in ENFORCE taking the guard into SAFE. That these changes come at
the end of the claim is log 25. A read whose adoption was abandoned only frees the port. -/
def Obligations.LastCaptureMakesTheProfileActive : Prop :=
  (∀ (s : State) (i : Nat) (addr : Word), s.arbiter.port = some (.captureRead i addr false) →
    Gives .captureReadCompletion s (· = { s with arbiter := { s.arbiter with port := none } })) ∧
  ∀ (s : State) (i : Nat) (addr : Word) (enforce : Bool) (p : Profile) (captured : List (Option Nat)),
    s.arbiter.port = some (.captureRead i addr true) →
    s.profile.adoption = .capturing enforce p i captured →
    let captured' := captured.set i (some (s.readMem addr).toNat)
    (∀ j e, i < j → p.entries[j]? = some e → e.enabled = true →
      (∀ k, i < k → k < j → ∀ d, p.entries[k]? = some d → d.enabled = false) →
      Gives .captureReadCompletion s (· = { s with
        arbiter := { s.arbiter with port := none }
        profile := { s.profile with adoption := .capturing enforce p j captured' } })) ∧
    ((∀ j e, i < j → p.entries[j]? = some e → e.enabled = false) →
      Gives .captureReadCompletion s (AdoptionCompletes enforce p captured' s))

/-- DISCARD: refused by the first failing check with nothing else changed; carried out, the profile is gone
from every unit, the guard is UNPROFILED with DRYHOLD asserted, counts, lock and the other latches are kept,
and each line that has already held for the strap's Q makes its qualified change, at the end of the claim
(log 25). -/
def Obligations.DiscardRemovesTheProfile : Prop :=
  ∀ s : State, s.mem.wf → TakesCommands s →
    let refusal :=
      if s.mode.mode = .unprofiled then some CommandResult.wrongMode
      else if s.profile.lock = true then some .locked
      else if s.web.upper.state ≠ .off ∨ (s.webExists .lower = true ∧ s.web.lower.state ≠ .off) then
        some .websActive
      else none
    (∀ res, refusal = some res →
      Gives .discard s fun t => OnlyAnswered 2 s t ∧ Answers 2 res 0 0 s t) ∧
    (refusal = none →
      let q := if s.test.qual then 20 else 5
      let asserts := s.estopAsserts q
      Gives .discard s fun t =>
        t = { s with
          mem := t.mem
          arbiter := ⟨.host, none⟩
          chan := { s.chan with chans := [], links := [] }
          speed := SpeedUnit.initial
          ramp := RampUnit.initial
          web := { s.web with
            breakU := t.web.breakU, breakL := t.web.breakL, spliceU := t.web.spliceU
            spliceL := t.web.spliceL, estopLine := t.web.estopLine
            upper := Sequencer.initial, lower := Sequencer.initial, window := 0, releaseDelay := 0
            webCount := 0, qualTime := q }
          mode := { ModeUnit.initial with
            estop := (s.mode.estop || asserts) && !s.estopNegates q
            livenessWord := s.mode.livenessWord }
          command := t.command
          report := t.report } ∧
        Stores 0x0000 2 s t ∧
        t.report = { s.report with
          threshold := 1, tag := 0, ring := t.report.ring, lost := t.report.lost
          latches := t.report.latches, fresh := t.report.fresh, attn := t.report.attn
          mirror := t.report.mirror } ∧
        LinesChecked q s t ∧ ResultWords 2 .done 0 0 .none s t ∧
        Latches (Cause.command.bit ||| Cause.profile.bit ||| (if asserts then Cause.estop.bit else 0)) s t ∧
        (∀ a : Word, 0x0060 ≤ a.toNat ∧ a.toNat ≤ 0x006F ∨ 0x0080 ≤ a.toNat ∧ a.toNat ≤ 0x00DF →
          Hands a 0 t) ∧
        let cleared :=
          if s.ramp.stallFlag ∧ s.ramp.queue ≠ [] then recordEvent .scanStallCleared 0 1 0 s else s
        let discarded := recordEvent .profileDiscarded 0 s.report.tag.toNat s.mode.mode.code cleared
        SameLog (if asserts then recordEvent .estopAsserted 0 0 0 discarded
          else if s.estopNegates q then recordEvent .estopReleased 0 0 0 discarded else discarded) t)

/-! ### The commands of the command word -/

/-- LOCK is refused in UNPROFILED and sets the lock in every other mode; a code of 10 and above is refused
BAD CODE, shown as 255 at most; CLEAR_DELTAS clears the five delta flags and hands word 0x004E on;
CLEAR_NOTES clears both notes of every channel. Each is answered, records no event and does nothing else. -/
def Obligations.SimpleCommandsAreAnswered : Prop :=
  (∀ s : State, s.mem.wf → TakesCommands s →
    Gives .lock s fun t =>
      let res := if s.mode.mode = .unprofiled then CommandResult.wrongMode else .done
      t = { s with
        mem := t.mem
        arbiter := ⟨.host, none⟩
        profile := { s.profile with lock := s.profile.lock || decide (s.mode.mode ≠ .unprofiled) }
        command := t.command
        report := t.report } ∧
      Stores 0x0000 5 s t ∧ ReportKept s t ∧ SameLog s t ∧ Answers 5 res 0 0 s t ∧
      (t.profile.lock ≠ s.profile.lock → Hands 0x0044 t.modeWord t)) ∧
  (∀ (s : State) (code : Word), s.mem.wf → TakesCommands s → 10 ≤ code.toNat →
    Gives (.badCode code) s fun t =>
      OnlyAnswered code s t ∧ Answers code.toNat .badCode 0 0 s t) ∧
  ∀ s : State, s.mem.wf → TakesCommands s →
    (Gives .clearDeltas s fun t =>
      t = { s with
        mem := t.mem
        arbiter := ⟨.host, none⟩
        web := { s.web with
          breakU := { s.web.breakU with delta := false }
          breakL := { s.web.breakL with delta := false }
          spliceU := { s.web.spliceU with delta := false }
          spliceL := { s.web.spliceL with delta := false }
          estopLine := { s.web.estopLine with delta := false } }
        command := t.command
        report := t.report } ∧
      Stores 0x0000 6 s t ∧ ReportKept s t ∧ SameLog s t ∧ Answers 6 .done 0 0 s t ∧
      Hands 0x004E t.inputWord t) ∧
    Gives .clearNotes s fun t =>
      t = { s with
        mem := t.mem
        arbiter := ⟨.host, none⟩
        chan := { s.chan with
          chans := s.chan.chans.map fun c =>
            if c.cfg.enabled then { c with clampNote := false, absorbNote := false } else c }
        command := t.command
        report := t.report } ∧
      Stores 0x0000 7 s t ∧ ReportKept s t ∧ SameLog s t ∧ Answers 7 .done 0 0 s t

/-- SET_MODE: the first failing check answers; a carried-out one records MODE CHANGE and enters the mode
asked for: OBSERVE with an emptied queue, ENFORCE with a queue that agrees with the targets, going on
into SAFE with the ESTOP cause and every channel aimed at its safe value while ESTOP is asserted. No
channel moves and the liveness timer runs on unless SAFE stops it. What livenessMet and livenessRenewed
become is the model's choice (log 21, log 2), no rule's. -/
def Obligations.SetModeEntersTheModeAskedFor : Prop :=
  ∀ s : State, s.mem.wf → TakesCommands s →
    let m := s.mode.mode
    let enforce := decide (s.command.arg1 = 1)
    let outcome :=
      if m ≠ .observe ∧ m ≠ .enforce then some CommandResult.wrongMode
      else if 1 < s.command.arg1.toNat then some .badArgument
      else if m = (if enforce then .enforce else .observe) then some .done
      else if enforce = false ∧ s.profile.lock = true then some .locked
      else none
    (∀ res, outcome = some res →
      Gives .setMode s fun t => OnlyAnswered 3 s t ∧ Answers 3 res 0 0 s t) ∧
    (outcome = none →
      Gives .setMode s fun t =>
        let safe := enforce && s.mode.estop
        t = { s with
          mem := t.mem
          arbiter := ⟨.host, none⟩
          chan := t.chan, ramp := t.ramp, web := t.web, mode := t.mode
          command := t.command
          report := t.report } ∧
        Stores 0x0000 3 s t ∧
        Shown s t ∧ ChannelsKept s t ∧ WebsKept s t ∧ TargetLaw t ∧ SettledLaw t ∧ DryholdLaw t ∧
        ReportKept s t ∧ Answers 3 .done 0 0 s t ∧
        t.mode = { s.mode with
          mode := if safe then .safe else if enforce then .enforce else .observe
          causeEstop := s.mode.causeEstop || safe
          livenessTimer := if safe then none else s.mode.livenessTimer
          livenessMet :=
            if safe then s.mode.livenessTimer.isSome && !s.mode.livenessRenewed else s.mode.livenessMet
          livenessRenewed := s.mode.livenessRenewed && !decide safe
          dryhold := t.mode.dryhold } ∧
        (enforce = false → t.ramp.queue = [] ∧ t.ramp.stallFlag = (s.ramp.stallFlag && s.ramp.queue.isEmpty)) ∧
        (enforce = true → safe = false → QueueAgrees s t) ∧ (safe = true → AllAreSafed s t) ∧
        (s.ramp.stallFlag = false →
          let changed := recordEvent .modeChange 0 m.code (if enforce then 2 else 1) s
          SameLog (if safe then
            recordEvent .safeStandEntered 0 (s.causeBits ||| 2) 2 changed else changed) t))

/-- RECOVER: the first failing check answers, CAUSE PRESENT naming the causes that fail theirs; carried
out, the mode is ENFORCE, the causes and pulse-seen are cleared, the liveness timer starts, RECOVERED is
recorded, the queue agrees with the targets, and no channel moves. -/
def Obligations.RecoverReturnsToEnforce : Prop :=
  ∀ s : State, s.mem.wf → TakesCommands s →
    let m := s.mode.mode
    let standing :=
      (if s.mode.causeLiveness ∧ ¬s.mode.pulseSeen then 1 else 0) +
        (if s.mode.causeEstop ∧ s.mode.estop then 2 else 0)
    let refusal :=
      if m ≠ .frozen ∧ m ≠ .safe then some (CommandResult.wrongMode, 0)
      else if s.mode.causeLiveness ∧ s.mode.recovery = .resetOnly then some (.notPermitted, 0)
      else if standing ≠ 0 then some (.causePresent, standing)
      else none
    (∀ res detail, refusal = some (res, detail) →
      Gives .recover s fun t => OnlyAnswered 4 s t ∧ Answers 4 res detail 0 s t) ∧
    (refusal = none →
      Gives .recover s fun t =>
        t = { s with
          mem := t.mem
          arbiter := ⟨.host, none⟩
          chan := t.chan, ramp := t.ramp, web := t.web, mode := t.mode
          command := t.command
          report := t.report } ∧
        Stores 0x0000 4 s t ∧
        Shown s t ∧ ChannelsKept s t ∧ WebsKept s t ∧ TargetLaw t ∧ SettledLaw t ∧ DryholdLaw t ∧
        ReportKept s t ∧ Answers 4 .done 0 0 s t ∧
        t.mode = { s.mode with
          mode := .enforce
          causeLiveness := false
          causeEstop := false
          pulseSeen := false
          livenessMet := false
          livenessRenewed := false
          livenessTimer := if 0 < s.mode.period then some s.mode.period else none
          dryhold := t.mode.dryhold } ∧
        QueueAgrees s t ∧
        (s.ramp.stallFlag = false →
          SameLog (recordEvent .recovered 0 s.causeBits m.code s) t))

/-- SELF_TEST is refused outside UNPROFILED, and otherwise accepted: every fail flag set, the ran-to-end
flag clear, BUSY set, PENDING. SELF_TEST_DONE for it shows the flags, records SELF TEST DONE with detail B
1, answers DONE with the flags in the three result words, all handed on, and clears BUSY. -/
def Obligations.SelfTestRunsAndIsAnswered : Prop :=
  (∀ s : State, s.mem.wf → TakesCommands s → s.mode.mode ≠ .unprofiled →
    Gives .selfTest s fun t => OnlyAnswered 8 s t ∧ Answers 8 .wrongMode 0 0 s t) ∧
  (∀ s : State, s.mem.wf → TakesCommands s → s.mode.mode = .unprofiled → DryholdLaw s →
    Gives .selfTest s fun t =>
      t = { s with
        mem := t.mem
        arbiter := ⟨.host, none⟩
        test := { s.test with flags := ⟨true, true, true, true⟩, ranToEnd := false }
        command := t.command
        report := t.report } ∧
      Stores 0x0000 8 s t ∧ ReportKept s t ∧ SameLog s t ∧ SameLatches s t ∧
      ResultWords 8 .pending 0 0 .selfTest s t ∧ Hands 0x0044 t.modeWord t) ∧
  ∀ (s : State) (failed : StoreFlags), s.command.work = .selfTest →
    Gives (.selfTestDone failed) s fun t =>
      t = { s with
        test := { s.test with flags := failed, ranToEnd := true }
        mode := t.mode
        command := { s.command with
          work := .none
          result := wordOf (CommandResult.done.code + 256 * 8)
          detail1 := wordOf failed.bits
          detail2 := 0 }
        report := t.report } ∧
      StoresNothing s t ∧ ModeKept s t ∧ DryholdLaw t ∧ ReportKept s t ∧
      SameLog (recordEvent .selfTestDone 0 failed.bits 1 s) t ∧ Latches Cause.command.bit s t ∧
      Hands 0x0043 t.testWord t ∧ Hands 0x0044 t.modeWord t ∧ Hands 0x0049 t.command.result t ∧
      Hands 0x004A t.command.detail1 t ∧ Hands 0x004B 0 t ∧ Hands 0x004F t.report.summaryWord t

/-- RESTART is taken BUSY or not: the profile, the lists, the counts and the latches are gone, the lock, the
copies, the record, the timestamp and the ran-to-end flag are kept, every status word waits to be
written and BUSY is set. The fail flags are kept unless a test was under way, of which the last group cannot
have passed. The step that then finds no command waiting ends the sequence (the model's choice, log 11):
RESTARTED names the mode left and the work abandoned, DONE is answered, BUSY clears and the lines are
watched. -/
def Obligations.RestartKeepsWhatItMust : Prop :=
  (∀ s : State, s.mem.wf → HostFree s → s.pins.resetHeld = false →
    Gives .restart s fun t =>
      t = { s with
        mem := t.mem
        path := { s.path with blocked := 0 }
        arbiter := ⟨.host, none⟩
        chan := ChannelUnit.initial
        speed := SpeedUnit.initial
        ramp := RampUnit.initial
        web := t.web
        mode := { ModeUnit.initial with livenessWord := s.mode.livenessWord }
        profile := { s.profile with adoption := .idle }
        command := { CommandUnit.initial with
          work := .restart, arg1 := s.command.arg1, left := s.mode.mode, abandoned := s.command.work }
        report := t.report
        test := t.test
        freeCount := t.freeCount } ∧
      Stores 0x0000 9 s t ∧
      t.web.upper = Sequencer.initial ∧ t.web.lower = Sequencer.initial ∧
      t.web.command = s.web.command ∧ t.web.qualTime = (if s.pins.strapQual then 20 else 5) ∧
      (∀ l, t.web.input l = ⟨(s.web.input l).raw, false, none, false⟩) ∧
      t.test.webs = s.pins.strapWebs ∧ t.test.qual = s.pins.strapQual ∧
      t.test.ranToEnd = s.test.ranToEnd ∧
      (s.command.work ≠ .selfTest ∧ s.command.work ≠ .startUp → t.test.flags = s.test.flags) ∧
      (s.command.work = .selfTest ∨ s.command.work = .startUp → t.test.flags.report = true) ∧
      t.report = { ReportUnit.initial with
        timestamp := s.report.timestamp, mask := s.report.mask, ackMode := s.report.ackMode
        ackWord := s.report.ackWord, mirror := t.report.mirror } ∧
      Hands 0x0040 0x7220 t ∧ Hands 0x0043 t.testWord t ∧ Hands 0x0044 t.modeWord t ∧
      Hands 0x0009 0 t ∧
      ∀ a : Word, 0x0040 ≤ a.toNat → a.toNat ≤ 0x00FF → (t.report.waiting a).isSome = true) ∧
  ∀ s : State, s.pending = [] → s.command.work = .restart → s.report.ring = [] →
    s.report.unread ≤ 62 → ∃ t, step s = .next t ∧
      t = { s with web := t.web, command := t.command, report := t.report } ∧
      t.web = { s.web with
        breakU := t.web.breakU, breakL := t.web.breakL, spliceU := t.web.spliceU
        spliceL := t.web.spliceL, estopLine := t.web.estopLine } ∧
      (∀ l, t.web.input l = { s.web.input l with
        qualifier :=
          if (s.web.input l).raw ≠ (s.web.input l).level then
            some ((s.web.input l).qualifier.getD 0) else none }) ∧
      t.command = { s.command with
        work := .none, result := wordOf (CommandResult.done.code + 256 * 9), detail1 := 0, detail2 := 0 } ∧
      ReportKept s t ∧ Latches Cause.command.bit s t ∧ t.report.lost = s.report.lost ∧
      t.report.ring = [⟨s.report.writeIndex % 64, eventWord .restarted 0,
        wordOf s.command.left.code, wordOf s.command.abandoned.code, wordOf s.report.timestamp, 0⟩] ∧
      Hands 0x0044 t.modeWord t ∧ Hands 0x0049 t.command.result t ∧ Hands 0x004A 0 t ∧ Hands 0x004B 0 t

/-! ### Webs -/

/-- A write to the web command word, whatever its row: each field is answered by the first check that it
fails, DONE is carried out, both results are handed on, and one change of both webs reaches the channels.
An unused code in either field makes both results BAD CODE and does nothing else. That a splice which the
upper field starts is recorded before the lower field's change is the model's choice (log 39). -/
def Obligations.WebCommandWordIsTaken : Prop :=
  ∀ (i : Instr) (s : State) (v : Word), i.write = some (0x0004, v) → s.mem.wf → HostFree s →
    s.pins.resetHeld = false → TargetLaw s → SettledLaw s →
    (4 < upperField v ∨ 4 < lowerField v →
      Gives i s fun t =>
        t = { s with
          mem := t.mem
          arbiter := ⟨.host, none⟩
          web := { s.web with command := v, resultU := .badCode, resultL := .badCode }
          report := t.report } ∧
        Stores 0x0004 v s t ∧ t.report = { s.report with mirror := t.report.mirror } ∧
        Hands 0x0048 t.webResultWord t) ∧
    (upperField v ≤ 4 ∧ lowerField v ≤ 4 →
      Gives i s fun t =>
        t = { s with
          mem := t.mem
          arbiter := ⟨.host, none⟩
          chan := t.chan, ramp := t.ramp, mode := t.mode, report := t.report
          web := { s.web with
            command := v
            upper := t.web.upper
            lower := t.web.lower
            resultU := webOutcome .upper (upperField v) s
            resultL := webOutcome .lower (lowerField v) s } } ∧
        Stores 0x0004 v s t ∧
        Shown s t ∧ ChannelsKept s t ∧ ModeKept s t ∧ ReportKept s t ∧ SameLatches s t ∧
        SeqIs .upper (webAfter .upper (upperField v) s) t ∧
        SeqIs .lower (webAfter .lower (lowerField v) s) t ∧
        TargetLaw t ∧ SettledLaw t ∧ PinnedAreQueued s t ∧ Hands 0x0048 t.webResultWord t ∧
        (s.ramp.stallFlag = false →
          SameLog (webEvents .lower (lowerField v) s (webEvents .upper (upperField v) s s)) t))

/-- QUALIFIER_START sets the raw level of its line and starts or idles its qualifier, and nothing else. A
qualified negation of a break line, and a qualified change of a line whose web does not exist or does not
act on it, sets the level and the delta flag, idles the qualifier and hands word 0x004E on: no event, no
cause, no web and no channel changes. -/
def Obligations.LinesAreQualified : Prop :=
  (∀ (l : InputLine) (raw : Bool) (s : State),
    Gives (.qualifierStart l raw) s (· = { s with
      web := s.web.onInput l fun i =>
        { i with
          raw := raw
          qualifier :=
            if s.watching = true ∧ raw ≠ i.level then some (i.qualifier.getD 0) else none } })) ∧
  ∀ (w : WebId) (s : State), s.watching = true →
    let changed := fun (l : InputLine) (level : Bool) (t : State) =>
      t = { s with
        web := s.web.onInput l fun _ => ⟨level, level, none, true⟩
        report := { s.report with mirror := t.report.mirror } } ∧
      Hands 0x004E t.inputWord t
    (s.breakLevel w = true → Gives (.breakQualifiedNegation w) s (changed (breakLineOf w) false)) ∧
    (s.breakLevel w = false →
      s.webExists w = false ∨ (s.seq w).state = .off ∨ (s.seq w).state = .broken →
        Gives (.breakQualifiedAssertion w) s (changed (breakLineOf w) true)) ∧
    (s.spliceLevel w = false →
      s.webExists w = false ∨ (s.seq w).state ≠ .running ∨ (s.seq w).spliceLatched = true →
        Gives (.spliceQualifiedAssertion w) s (changed (spliceLineOf w) true)) ∧
    (s.spliceLevel w = true → s.webExists w = false →
      Gives (.spliceQualifiedNegation w) s (changed (spliceLineOf w) false))

/-- BREAK_QUALIFIED_ASSERTION: in THREADING and RUNNING the break is taken: BROKEN, TRIP, BREAK TAKEN with
detail A 0, BREAK latched, the channels pinned in one change. In SPLICING it is deferred: break-pending and
BREAK DEFERRED with the time since the start, and nothing else. -/
def Obligations.BreakIsTakenOrDeferred : Prop :=
  ∀ (w : WebId) (s : State), s.chan.chans.length ≤ 96 → s.watching = true → s.breakLevel w = false →
    s.webExists w = true →
    let lined := s.web.onInput (breakLineOf w) fun _ => ⟨true, true, none, true⟩
    ((s.seq w).state = .threading ∨ (s.seq w).state = .running → TargetLaw s → SettledLaw s →
      Gives (.breakQualifiedAssertion w) s fun t =>
        OnlyAimed s t ∧ StoresNothing s t ∧ ModeKept s t ∧
        t.web = { lined with upper := t.web.upper, lower := t.web.lower } ∧
        SeqIs w { s.seq w with
          state := .broken, breakPending := false, spliceTimer := none, trip := true } t ∧
        (∀ w', w' ≠ w → SeqIs w' (s.seq w') t) ∧
        TargetLaw t ∧ SettledLaw t ∧ PinnedAreQueued s t ∧ Latches Cause.webBreak.bit s t ∧
        Hands 0x004E t.inputWord t ∧ Hands 0x004F t.report.summaryWord t ∧
        (s.ramp.stallFlag = false →
          SameLog (recordEvent .breakTaken w.byte 0 s.speed.reported s) t)) ∧
    ((s.seq w).state = .splicing →
      Gives (.breakQualifiedAssertion w) s fun t =>
        t = { s with
          web := lined.onSeq w fun q => { q with breakPending := true }
          report := t.report } ∧
        ReportKept s t ∧ SameLatches s t ∧ Hands 0x004E t.inputWord t ∧
        SameLog (recordEvent .breakDeferred w.byte (s.seq w).spliceTime s.speed.reported s) t)

/-- SPLICE_QUALIFIED_ASSERTION in RUNNING with the latch clear starts a splice.
SPLICE_QUALIFIED_NEGATION outside SPLICING clears the latch. No channel moves or is aimed. -/
def Obligations.SpliceStartsAndItsLatchClears : Prop :=
  ∀ (w : WebId) (s : State), s.watching = true → s.webExists w = true → SettledLaw s →
    (s.spliceLevel w = false → (s.seq w).state = .running → (s.seq w).spliceLatched = false →
      Gives (.spliceQualifiedAssertion w) s fun t =>
        t = { s with
          web := (s.web.onInput (spliceLineOf w) fun _ => ⟨true, true, none, true⟩).onSeq w fun q =>
            { q with
              state := .splicing, breakPending := false, spliceLatched := true
              spliceTimer := some s.web.window, spliceTime := 0 }
          report := t.report } ∧
        ReportKept s t ∧ SameLatches s t ∧ Hands 0x004E t.inputWord t ∧
        Hands (webWordAddr w) (t.webWord w) t ∧
        SameLog (recordEvent .spliceStart w.byte 0 s.speed.reported s) t) ∧
    (s.spliceLevel w = true → (s.seq w).state ≠ .splicing →
      Gives (.spliceQualifiedNegation w) s fun t =>
        t = { s with
          web := (s.web.onInput (spliceLineOf w) fun _ => ⟨false, false, none, true⟩).onSeq w fun q =>
            { q with spliceLatched := false }
          report := { s.report with mirror := t.report.mirror } } ∧
        Hands 0x004E t.inputWord t)

/-- SPLICE_QUALIFIED_NEGATION and SPLICE_WINDOW_EXPIRY in SPLICING: SPLICE END, released with the duration or
overdue with W; then by the break line's level the web is BROKEN with BREAK TAKEN after splice, or RUNNING,
with SPLICE TRANSIENT if a break was pending. The latch clears by release only. -/
def Obligations.SpliceEndsByTheBreakLine : Prop :=
  ∀ (w : WebId) (s : State), (s.seq w).state = .splicing → SettledLaw s → TargetLaw s →
    let ends := fun (i : Instr) (web : WebUnit) (overdue : Bool) (duration : Nat) =>
      let ended := recordEvent .spliceEnd w.byte (if overdue then 1 else 0) duration s
      let left := fun (st : WebState) (trip : Bool) =>
        { s.seq w with
          state := st, breakPending := false, spliceTimer := none, trip := trip
          spliceLatched := overdue && (s.seq w).spliceLatched }
      (s.breakLevel w = false →
        Gives i s fun t =>
          t = { s with
            web := web.onSeq w fun _ => left .running (s.seq w).trip
            report := t.report } ∧
          ReportKept s t ∧ SameLatches s t ∧
          SameLog (if (s.seq w).breakPending then
            recordEvent .spliceTransient w.byte 0 s.speed.reported ended else ended) t) ∧
      (s.breakLevel w = true →
        Gives i s fun t =>
          OnlyAimed s t ∧ StoresNothing s t ∧ ModeKept s t ∧
          t.web = { web with upper := t.web.upper, lower := t.web.lower } ∧
          SeqIs w (left .broken true) t ∧ (∀ w', w' ≠ w → SeqIs w' (s.seq w') t) ∧
          TargetLaw t ∧ SettledLaw t ∧ PinnedAreQueued s t ∧ Latches Cause.webBreak.bit s t ∧
          (s.ramp.stallFlag = false →
            SameLog (recordEvent .breakTaken w.byte 1 s.speed.reported ended) t))
    (s.watching = true → s.spliceLevel w = true → s.webExists w = true →
      ends (.spliceQualifiedNegation w)
        (s.web.onInput (spliceLineOf w) fun _ => ⟨false, false, none, true⟩)
        false (s.seq w).spliceTime) ∧
    ((s.seq w).spliceTimer.isSome = true →
      ends (.spliceWindowExpiry w) s.web true s.web.window)

/-- TRIP_RELEASED: TRIP negates, the timer stops, TRIP RELEASED gives the number of counted channels and the
speed; the web stays BROKEN and no channel changes. -/
def Obligations.TripIsReleased : Prop :=
  ∀ (w : WebId) (s : State), (s.seq w).releaseTimer.isSome = true →
    Gives (.tripReleased w) s fun t =>
      t = { s with
        web := s.web.onSeq w fun q => { q with trip := false, releaseTimer := none }
        report := t.report } ∧
      ReportKept s t ∧ SameLatches s t ∧ Hands (webWordAddr w) (t.webWord w) t ∧
      SameLog (recordEvent .tripReleased w.byte
        (s.chan.chans.filter fun c => c.cfg.enabled && decide ((s.seq w).state = .broken) &&
          decide (s.gov c = .broken) &&
          (decide (c.cfg.owner = .shared) || decide (c.cfg.owner = ownerOf w))).length
        s.speed.reported s) t

/-! ### The mode -/

/-- ESTOP_QUALIFIED_ASSERTION: the level, the ESTOP cause latched, ESTOP ASSERTED with the modes before and
after, DRYHOLD asserted; ENFORCE and FROZEN go to SAFE with the ESTOP cause, every channel aimed at its
safe value, and SAFE STAND ENTERED. ESTOP_QUALIFIED_NEGATION: the level, ESTOP RELEASED, DRYHOLD derived,
the mode and the causes as before. What livenessMet and livenessRenewed become is the model's choice (log
21, log 2), no rule's. -/
def Obligations.EstopIsTaken : Prop :=
  ∀ s : State, s.chan.chans.length ≤ 96 → s.watching = true →
    let lined := fun (level : Bool) (t : State) =>
      t.web = { s.web.onInput .estop fun _ => ⟨level, level, none, true⟩ with
        upper := t.web.upper, lower := t.web.lower } ∧ Hands 0x004E t.inputWord t
    let old := s.mode.mode
    let safe := old = .enforce ∨ old = .frozen
    (s.web.estopLine.level = false →
      Gives .estopQualifiedAssertion s fun t =>
        OnlyAimed s t ∧ StoresNothing s t ∧ lined true t ∧ Latches Cause.estop.bit s t ∧
        Hands 0x004F t.report.summaryWord t ∧
        t.mode = { s.mode with
          estop := true
          dryhold := true
          mode := if safe then .safe else old
          causeEstop := s.mode.causeEstop || decide safe || decide (old = .safe)
          livenessTimer := if safe then none else s.mode.livenessTimer
          livenessMet :=
            if safe then s.mode.livenessTimer.isSome && !s.mode.livenessRenewed else s.mode.livenessMet
          livenessRenewed := s.mode.livenessRenewed && !decide safe } ∧
        (∀ w, SeqIs w (s.seq w) t) ∧ (¬safe → t.chan = s.chan ∧ t.ramp = s.ramp) ∧
        (safe → TargetLaw t ∧ SettledLaw t ∧ AllAreSafed s t ∧ PinsJoin s t) ∧
        (s.ramp.stallFlag = false →
          let asserted := recordEvent .estopAsserted 0 old.code t.mode.mode.code s
          SameLog (if safe then
            recordEvent .safeStandEntered 0 (s.causeBits % 2 + 2) old.code asserted else asserted) t)) ∧
    (s.web.estopLine.level = true →
      Gives .estopQualifiedNegation s fun t =>
        t = { s with web := t.web, mode := t.mode, report := t.report } ∧
        lined false t ∧ t.web.upper = s.web.upper ∧ t.web.lower = s.web.lower ∧
        ReportKept s t ∧ SameLatches s t ∧
        t.mode = { s.mode with estop := false, dryhold := t.mode.dryhold } ∧ DryholdLaw t ∧
        SameLog (recordEvent .estopReleased 0 old.code 0 s) t)

/-- LIVENESS_EXPIRED: in OBSERVE the event, the cause and a restarted timer. In ENFORCE LIVENESS becomes
a cause, the timer stops and the fault action gives FROZEN, where the waiting entries of held channels
are removed and every other keeps its place and value, or SAFE, where every channel is aimed at its safe
value; no channel moves. In SAFE, entered for ESTOP in the same moment, LIVENESS becomes a cause too.
Two marks are the model's choice: livenessMet (log 21), and livenessRenewed, under which the expiry that
came with a liveness write is none (log 2). -/
def Obligations.LivenessExpiryActs : Prop :=
  ∀ s : State,
    (s.mode.livenessRenewed = true →
      Gives .livenessExpired s (· = { s with mode := { s.mode with livenessRenewed := false } })) ∧
    (s.mode.livenessRenewed = false → s.mode.mode = .safe → s.mode.livenessMet = true →
      Gives .livenessExpired s fun t =>
        t = { s with
          mode := { s.mode with
            causeLiveness := true, pulseSeen := false, livenessTimer := none, livenessMet := false }
          report := t.report } ∧
        ReportKept s t ∧ Latches Cause.liveness.bit s t ∧ Hands 0x004F t.report.summaryWord t ∧
        SameLog (recordEvent .livenessExpired 0 4 4 s) t) ∧
    (s.mode.livenessRenewed = false → s.mode.livenessTimer.isSome = true → s.mode.mode = .observe →
      Gives .livenessExpired s fun t =>
        t = { s with
          mode := { s.mode with
            livenessTimer := if 0 < s.mode.period then some s.mode.period else none }
          report := t.report } ∧
        ReportKept s t ∧ Latches Cause.liveness.bit s t ∧ Hands 0x004F t.report.summaryWord t ∧
        SameLog (recordEvent .livenessExpired 0 1 1 s) t) ∧
    (s.mode.livenessRenewed = false → s.mode.livenessTimer.isSome = true → s.mode.mode = .enforce →
      let new := match s.mode.faultAction with | .freeze => Mode.frozen | .safe => Mode.safe
      Gives .livenessExpired s fun t =>
        OnlyAimed s t ∧ StoresNothing s t ∧ Latches Cause.liveness.bit s t ∧
        t.mode = { s.mode with
          mode := new
          causeLiveness := true
          pulseSeen := false
          livenessTimer := none
          livenessMet := false
          livenessRenewed := false
          dryhold := true } ∧
        WebsKept s t ∧ TargetLaw t ∧ SettledLaw t ∧
        (new = .frozen → t.ramp.queue = s.ramp.queue.filter fun e =>
          s.entryGranted e.channel || (t.chanAt e.channel).all fun c =>
            decide (t.gov c = .off) || decide (t.gov c = .broken)) ∧
        (new = .safe → AllAreSafed s t ∧ PinsJoin s t) ∧
        (s.ramp.stallFlag = false →
          let expired := recordEvent .livenessExpired 0 2 new.code s
          SameLog (if new = .safe then
            recordEvent .safeStandEntered 0 (1 + s.causeBits / 2 * 2) 2 expired else expired) t))

/-! ### The speed -/

/-- The band that R61 selects from band k of a curve whose thresholds rise: the highest band reached, if the
speed has reached the next threshold; else, below the threshold less the hysteresis, the first band down
that the speed is not below by more than that; else band k. -/
def Obligations.BandMovesByThresholdAndHysteresis : Prop :=
  ∀ (speed hysteresis k : Nat) (curve : List Breakpoint), k < curve.length →
    curve.Pairwise (fun a b => a.threshold < b.threshold) →
    let th := fun j => (curve.getD j ⟨0, 0, 0⟩).threshold
    let r := selectBand speed hysteresis curve k
    r < curve.length ∧
    (k + 1 < curve.length ∧ th (k + 1) ≤ speed →
      k < r ∧ th r ≤ speed ∧ ∀ j, r < j → j < curve.length → speed < th j) ∧
    (¬(k + 1 < curve.length ∧ th (k + 1) ≤ speed) ∧ 0 < k ∧ speed + hysteresis < th k →
      r < k ∧ (r = 0 ∨ th r ≤ speed + hysteresis) ∧ ∀ j, r < j → j ≤ k → speed + hysteresis < th j) ∧
    (¬(k + 1 < curve.length ∧ th (k + 1) ≤ speed) ∧ ¬(0 < k ∧ speed + hysteresis < th k) → r = k)

/-- GATE_END: with an active source that pulses, the speed is the count times 60,000 over G times its
ppm, at most 1,500, every band is selected afresh and the channels on moved curves are re-aimed with
their entries; SPEED REGAINED comes before BAND CHANGE. With a silent active source nothing is computed.
The counts and the gate restart. -/
def Obligations.GateEndMeasuresTheSpeed : Prop :=
  ∀ (s : State) (x : Source), s.speed.gateTimer.isSome = true → s.speed.active = some x →
    ((s.speed.src x).silent = true →
      Gives .gateEnd s (· = { s with
        speed := { s.speed with
          srcA := { s.speed.srcA with count := 0 }
          srcB := { s.speed.srcB with count := 0 }
          gateTimer := some s.speed.gate } })) ∧
    ((s.speed.src x).silent = false → TargetLaw s → s.chan.chans.length ≤ 96 →
      s.speed.bands.length ≤ 16 →
      Gives .gateEnd s fun t =>
        let speed := Nat.min 1500 ((s.speed.src x).count * 60000 / (s.speed.gate * s.speed.ppm x))
        let bands := List.zipWith (selectBand speed s.speed.hysteresis) s.speed.curves s.speed.bands
        let moved := (List.range s.speed.bands.length).filter fun c =>
          decide (s.speed.bands[c]? ≠ bands[c]?)
        t = { s with
          chan := t.chan, ramp := t.ramp, mode := t.mode, report := t.report
          speed := { s.speed with
            valid := true
            reported := speed
            bands := if moved = [] then s.speed.bands else bands
            srcA := { s.speed.srcA with count := 0 }
            srcB := { s.speed.srcB with count := 0 }
            gateTimer := some s.speed.gate } } ∧
        StoresNothing s t ∧ ChannelsKept s t ∧ ModeKept s t ∧ ReportKept s t ∧ SameLatches s t ∧
        TargetLaw t ∧ BandsReachQueue s t ∧
        Shown s t ∧ (∀ c ∈ moved, Hands (bandWordAddr c) (t.bandWord c) t) ∧
        (wordOf s.speed.reported ≠ wordOf speed → Hands 0x004C (wordOf speed) t) ∧
        (s.ramp.stallFlag = false →
          let regained :=
            if s.speed.valid then s else recordEvent .speedRegained 0 x.code speed s
          SameLog (if moved = [] then regained
            else recordEvent .bandChange 0 moved.length speed regained) t))

/-- TACH_PULSE: counted to 65,535, the silence timer restarts at L and a silence ends; with a silent
active source the pulsing one becomes active. With no profile it is ignored. SILENCE: the source is
silent; the active source gives way to one that pulses, or the speed becomes UNKNOWN with every curve at
band 0 and the channels re-aimed with their entries. An expiry that came with a pulse taken first is
none, by the model's mark of that pulse (log 2). -/
def Obligations.PulsesAndSilenceChooseTheSource : Prop :=
  ∀ (s : State) (x : Source),
    let y := Source.other x
    let switched := fun (dest : Source) (t : State) =>
      Latches Cause.speed.bit s t ∧
        SameLog (recordEvent .speedSourceSwitch 0 dest.code s.speed.reported s) t
    let pulsed := s.speed.onSrc x fun c =>
      ⟨countUp c.count, some s.speed.silence, false, c.timer.isSome⟩
    let silenced := s.speed.onSrc x fun c => { c with timer := none, silent := true }
    (s.mode.mode = .unprofiled → Gives (.tachPulse x) s (· = s)) ∧
    (s.mode.mode ≠ .unprofiled →
      Gives (.tachPulse x) s fun t =>
        let gives := (s.speed.src x).silent = true ∧ s.speed.active = some y ∧
          (s.speed.src y).silent = true
        t = { s with
          speed := if gives then { pulsed with active := some x } else pulsed
          report := t.report } ∧
        ReportKept s t ∧ (gives → switched x t) ∧ (¬gives → SameLog s t ∧ SameLatches s t)) ∧
    ((s.speed.src x).renewed = true →
      Gives (.silence x) s (· = { s with
        speed := s.speed.onSrc x fun c => { c with renewed := false } })) ∧
    ((s.speed.src x).renewed = false → (s.speed.src x).timer.isSome = true →
      let last := s.speed.active = some x ∧ (s.speed.src y).silent = true ∧ s.speed.valid = true
      let gives := s.speed.active = some x ∧ (s.speed.src y).silent = false
      (¬last →
        Gives (.silence x) s fun t =>
          t = { s with
            speed := if gives then { silenced with active := some y } else silenced
            report := t.report } ∧
          ReportKept s t ∧ (gives → switched y t) ∧ (¬gives → SameLog s t ∧ SameLatches s t)) ∧
      (last → TargetLaw s →
        Gives (.silence x) s fun t =>
          t = { s with
            chan := t.chan, ramp := t.ramp, mode := t.mode, report := t.report
            speed := { silenced with
              valid := false, reported := 0, bands := s.speed.bands.map fun _ => 0 } } ∧
          StoresNothing s t ∧ ChannelsKept s t ∧ ModeKept s t ∧ ReportKept s t ∧ TargetLaw t ∧
          BandsReachQueue s t ∧ Shown s t ∧ Latches Cause.speed.bit s t ∧
          (s.chan.chans.length ≤ 96 → s.speed.bands.length ≤ 16 →
            (wordOf s.speed.reported ≠ 0 → Hands 0x004C 0 t) ∧ Hands 0x004D t.speedStatusWord t ∧
              ∀ c < s.speed.bands.length, s.speed.bands.getD c 0 ≠ 0 → Hands (bandWordAddr c) 0 t) ∧
          (s.ramp.stallFlag = false →
            SameLog (recordEvent .speedUnknown 0 (s.speed.bands.filter (· ≠ 0)).length
              s.speed.reported s) t)))

/-! ### Reset, start-up and the timestamp -/

/-- RESET_ASSERT: every unit takes its value under hardware reset; memory, the pins, the raw lines and
the accesses under way stay, the host's with the class it had and the guard's with their work gone. That
until the straps are read they stand false and Q is 5 ms is the model's choice (log 13). TIMESTAMP_TICK:
the counter adds one and wraps, but not while RESET is held. -/
def Obligations.ResetClearsAndTimeCounts : Prop :=
  ∀ s : State,
    (Gives .resetAssert s (· = { State.reset with
      pins := { s.pins with resetHeld := true }
      path := { s.path with
        blocked := 0 }
      arbiter := ⟨.guard, s.arbiter.port.map PortAccess.orphan⟩
      web := { State.reset.web with
        breakU := ⟨s.web.breakU.raw, false, none, false⟩
        breakL := ⟨s.web.breakL.raw, false, none, false⟩
        spliceU := ⟨s.web.spliceU.raw, false, none, false⟩
        spliceL := ⟨s.web.spliceL.raw, false, none, false⟩
        estopLine := ⟨s.web.estopLine.raw, false, none, false⟩ }
      mem := s.mem
      freeCount := s.freeCount
      pending := s.pending })) ∧
    (s.pins.resetHeld = false → Gives .timestampTick s (· = { s with
      report := { s.report with timestamp := (s.report.timestamp + 1) % 65536 } })) ∧
    (s.pins.resetHeld = true → Gives .timestampTick s (· = s))

/-- START_UP: BUSY is set, the counts are 0, every fail flag is set and DRYHOLD derived. SELF_TEST_DONE for
it: the flags are the test's, the straps are read, the indices and results are 0, every status word waits
to be written, SELF TEST DONE with detail B 0 is recorded, BUSY is clear and the lines are watched. At every
moment each status word holds its fields in their places. -/
def Obligations.StartUpTestsAndPlacesTheStatus : Prop :=
  ∀ s : State, StatusWordsHold s ∧
    (s.pins.resetHeld = true →
      Gives .startUp s fun t =>
        t = { s with
          pins := { s.pins with resetHeld := false }
          path := { s.path with blocked := 0 }
          chan := { s.chan with absorbed := 0 }
          mode := t.mode
          command := { s.command with work := .startUp }
          report := { s.report with lost := 0, mirror := t.report.mirror }
          test := { s.test with flags := ⟨true, true, true, true⟩, ranToEnd := false } } ∧
        StoresNothing s t ∧ ModeKept s t ∧ DryholdLaw t) ∧
    ∀ failed : StoreFlags, s.command.work = .startUp → s.report.ring = [] →
      Gives (.selfTestDone failed) s fun t =>
        t = { s with
          web := t.web
          mode := t.mode
          command := { s.command with work := .none }
          report := t.report
          test := ⟨failed, true, s.pins.strapWebs, s.pins.strapQual⟩ } ∧
        StoresNothing s t ∧ ModeKept s t ∧ DryholdLaw t ∧ SameLatches s t ∧
        t.web.resultU = .none ∧ t.web.resultL = .none ∧ t.web.upper = s.web.upper ∧
        t.web.lower = s.web.lower ∧ t.web.qualTime = (if s.pins.strapQual then 20 else 5) ∧
        (∀ l, t.web.input l = { s.web.input l with
          qualifier :=
            if (s.web.input l).raw ≠ (s.web.input l).level then
              some ((s.web.input l).qualifier.getD 0) else none }) ∧
        t.report.writeIndex = 0 ∧ t.report.readIndex = 0 ∧ t.report.lost = s.report.lost ∧
        t.report.ring = [⟨0, eventWord .selfTestDone 0, wordOf failed.bits, 0,
          wordOf s.report.timestamp, 0⟩] ∧
        Hands 0x0040 0x7220 t ∧ Hands 0x0041 2 t ∧ Hands 0x0042 t.strapWord t ∧
        Hands 0x0043 t.testWord t ∧ Hands 0x0044 t.modeWord t ∧ Hands 0x0045 t.causesWord t ∧
        Hands 0x0009 0 t ∧ Hands 0x0050 0 t ∧
        ∀ a : Word, 0x0046 ≤ a.toNat → a.toNat ≤ 0x00FF → Hands a 0 t
end

