-- ==== Sys2Proof/Laws/State.lean ====
section
/-! SUPPORT. One lemma for each field under each unit updater and under a memory write, all by rfl. -/

namespace Sys2Proof.Machine

section
variable (f : Pins → Pins) (s : State)
@[simp] theorem State.onPins_pins : (s.onPins f).pins = f s.pins := rfl
@[simp] theorem State.onPins_path : (s.onPins f).path = s.path := rfl
@[simp] theorem State.onPins_arbiter : (s.onPins f).arbiter = s.arbiter := rfl
@[simp] theorem State.onPins_chan : (s.onPins f).chan = s.chan := rfl
@[simp] theorem State.onPins_speed : (s.onPins f).speed = s.speed := rfl
@[simp] theorem State.onPins_ramp : (s.onPins f).ramp = s.ramp := rfl
@[simp] theorem State.onPins_web : (s.onPins f).web = s.web := rfl
@[simp] theorem State.onPins_mode : (s.onPins f).mode = s.mode := rfl
@[simp] theorem State.onPins_profile : (s.onPins f).profile = s.profile := rfl
@[simp] theorem State.onPins_command : (s.onPins f).command = s.command := rfl
@[simp] theorem State.onPins_report : (s.onPins f).report = s.report := rfl
@[simp] theorem State.onPins_test : (s.onPins f).test = s.test := rfl
@[simp] theorem State.onPins_mem : (s.onPins f).mem = s.mem := rfl
@[simp] theorem State.onPins_freeCount : (s.onPins f).freeCount = s.freeCount := rfl
@[simp] theorem State.onPins_pending : (s.onPins f).pending = s.pending := rfl
@[simp] theorem State.onPins_readMem (a : Word) : (s.onPins f).readMem a = s.readMem a := rfl
end

section
variable (f : PathUnit → PathUnit) (s : State)
@[simp] theorem State.onPath_pins : (s.onPath f).pins = s.pins := rfl
@[simp] theorem State.onPath_path : (s.onPath f).path = f s.path := rfl
@[simp] theorem State.onPath_arbiter : (s.onPath f).arbiter = s.arbiter := rfl
@[simp] theorem State.onPath_chan : (s.onPath f).chan = s.chan := rfl
@[simp] theorem State.onPath_speed : (s.onPath f).speed = s.speed := rfl
@[simp] theorem State.onPath_ramp : (s.onPath f).ramp = s.ramp := rfl
@[simp] theorem State.onPath_web : (s.onPath f).web = s.web := rfl
@[simp] theorem State.onPath_mode : (s.onPath f).mode = s.mode := rfl
@[simp] theorem State.onPath_profile : (s.onPath f).profile = s.profile := rfl
@[simp] theorem State.onPath_command : (s.onPath f).command = s.command := rfl
@[simp] theorem State.onPath_report : (s.onPath f).report = s.report := rfl
@[simp] theorem State.onPath_test : (s.onPath f).test = s.test := rfl
@[simp] theorem State.onPath_mem : (s.onPath f).mem = s.mem := rfl
@[simp] theorem State.onPath_freeCount : (s.onPath f).freeCount = s.freeCount := rfl
@[simp] theorem State.onPath_pending : (s.onPath f).pending = s.pending := rfl
@[simp] theorem State.onPath_readMem (a : Word) : (s.onPath f).readMem a = s.readMem a := rfl
end

section
variable (f : ArbiterUnit → ArbiterUnit) (s : State)
@[simp] theorem State.onArbiter_pins : (s.onArbiter f).pins = s.pins := rfl
@[simp] theorem State.onArbiter_path : (s.onArbiter f).path = s.path := rfl
@[simp] theorem State.onArbiter_arbiter : (s.onArbiter f).arbiter = f s.arbiter := rfl
@[simp] theorem State.onArbiter_chan : (s.onArbiter f).chan = s.chan := rfl
@[simp] theorem State.onArbiter_speed : (s.onArbiter f).speed = s.speed := rfl
@[simp] theorem State.onArbiter_ramp : (s.onArbiter f).ramp = s.ramp := rfl
@[simp] theorem State.onArbiter_web : (s.onArbiter f).web = s.web := rfl
@[simp] theorem State.onArbiter_mode : (s.onArbiter f).mode = s.mode := rfl
@[simp] theorem State.onArbiter_profile : (s.onArbiter f).profile = s.profile := rfl
@[simp] theorem State.onArbiter_command : (s.onArbiter f).command = s.command := rfl
@[simp] theorem State.onArbiter_report : (s.onArbiter f).report = s.report := rfl
@[simp] theorem State.onArbiter_test : (s.onArbiter f).test = s.test := rfl
@[simp] theorem State.onArbiter_mem : (s.onArbiter f).mem = s.mem := rfl
@[simp] theorem State.onArbiter_freeCount : (s.onArbiter f).freeCount = s.freeCount := rfl
@[simp] theorem State.onArbiter_pending : (s.onArbiter f).pending = s.pending := rfl
@[simp] theorem State.onArbiter_readMem (a : Word) : (s.onArbiter f).readMem a = s.readMem a := rfl
end

section
variable (f : ChannelUnit → ChannelUnit) (s : State)
@[simp] theorem State.onChan_pins : (s.onChan f).pins = s.pins := rfl
@[simp] theorem State.onChan_path : (s.onChan f).path = s.path := rfl
@[simp] theorem State.onChan_arbiter : (s.onChan f).arbiter = s.arbiter := rfl
@[simp] theorem State.onChan_chan : (s.onChan f).chan = f s.chan := rfl
@[simp] theorem State.onChan_speed : (s.onChan f).speed = s.speed := rfl
@[simp] theorem State.onChan_ramp : (s.onChan f).ramp = s.ramp := rfl
@[simp] theorem State.onChan_web : (s.onChan f).web = s.web := rfl
@[simp] theorem State.onChan_mode : (s.onChan f).mode = s.mode := rfl
@[simp] theorem State.onChan_profile : (s.onChan f).profile = s.profile := rfl
@[simp] theorem State.onChan_command : (s.onChan f).command = s.command := rfl
@[simp] theorem State.onChan_report : (s.onChan f).report = s.report := rfl
@[simp] theorem State.onChan_test : (s.onChan f).test = s.test := rfl
@[simp] theorem State.onChan_mem : (s.onChan f).mem = s.mem := rfl
@[simp] theorem State.onChan_freeCount : (s.onChan f).freeCount = s.freeCount := rfl
@[simp] theorem State.onChan_pending : (s.onChan f).pending = s.pending := rfl
@[simp] theorem State.onChan_readMem (a : Word) : (s.onChan f).readMem a = s.readMem a := rfl
end

section
variable (f : SpeedUnit → SpeedUnit) (s : State)
@[simp] theorem State.onSpeed_pins : (s.onSpeed f).pins = s.pins := rfl
@[simp] theorem State.onSpeed_path : (s.onSpeed f).path = s.path := rfl
@[simp] theorem State.onSpeed_arbiter : (s.onSpeed f).arbiter = s.arbiter := rfl
@[simp] theorem State.onSpeed_chan : (s.onSpeed f).chan = s.chan := rfl
@[simp] theorem State.onSpeed_speed : (s.onSpeed f).speed = f s.speed := rfl
@[simp] theorem State.onSpeed_ramp : (s.onSpeed f).ramp = s.ramp := rfl
@[simp] theorem State.onSpeed_web : (s.onSpeed f).web = s.web := rfl
@[simp] theorem State.onSpeed_mode : (s.onSpeed f).mode = s.mode := rfl
@[simp] theorem State.onSpeed_profile : (s.onSpeed f).profile = s.profile := rfl
@[simp] theorem State.onSpeed_command : (s.onSpeed f).command = s.command := rfl
@[simp] theorem State.onSpeed_report : (s.onSpeed f).report = s.report := rfl
@[simp] theorem State.onSpeed_test : (s.onSpeed f).test = s.test := rfl
@[simp] theorem State.onSpeed_mem : (s.onSpeed f).mem = s.mem := rfl
@[simp] theorem State.onSpeed_freeCount : (s.onSpeed f).freeCount = s.freeCount := rfl
@[simp] theorem State.onSpeed_pending : (s.onSpeed f).pending = s.pending := rfl
@[simp] theorem State.onSpeed_readMem (a : Word) : (s.onSpeed f).readMem a = s.readMem a := rfl
end

section
variable (f : RampUnit → RampUnit) (s : State)
@[simp] theorem State.onRamp_pins : (s.onRamp f).pins = s.pins := rfl
@[simp] theorem State.onRamp_path : (s.onRamp f).path = s.path := rfl
@[simp] theorem State.onRamp_arbiter : (s.onRamp f).arbiter = s.arbiter := rfl
@[simp] theorem State.onRamp_chan : (s.onRamp f).chan = s.chan := rfl
@[simp] theorem State.onRamp_speed : (s.onRamp f).speed = s.speed := rfl
@[simp] theorem State.onRamp_ramp : (s.onRamp f).ramp = f s.ramp := rfl
@[simp] theorem State.onRamp_web : (s.onRamp f).web = s.web := rfl
@[simp] theorem State.onRamp_mode : (s.onRamp f).mode = s.mode := rfl
@[simp] theorem State.onRamp_profile : (s.onRamp f).profile = s.profile := rfl
@[simp] theorem State.onRamp_command : (s.onRamp f).command = s.command := rfl
@[simp] theorem State.onRamp_report : (s.onRamp f).report = s.report := rfl
@[simp] theorem State.onRamp_test : (s.onRamp f).test = s.test := rfl
@[simp] theorem State.onRamp_mem : (s.onRamp f).mem = s.mem := rfl
@[simp] theorem State.onRamp_freeCount : (s.onRamp f).freeCount = s.freeCount := rfl
@[simp] theorem State.onRamp_pending : (s.onRamp f).pending = s.pending := rfl
@[simp] theorem State.onRamp_readMem (a : Word) : (s.onRamp f).readMem a = s.readMem a := rfl
end

section
variable (f : WebUnit → WebUnit) (s : State)
@[simp] theorem State.onWeb_pins : (s.onWeb f).pins = s.pins := rfl
@[simp] theorem State.onWeb_path : (s.onWeb f).path = s.path := rfl
@[simp] theorem State.onWeb_arbiter : (s.onWeb f).arbiter = s.arbiter := rfl
@[simp] theorem State.onWeb_chan : (s.onWeb f).chan = s.chan := rfl
@[simp] theorem State.onWeb_speed : (s.onWeb f).speed = s.speed := rfl
@[simp] theorem State.onWeb_ramp : (s.onWeb f).ramp = s.ramp := rfl
@[simp] theorem State.onWeb_web : (s.onWeb f).web = f s.web := rfl
@[simp] theorem State.onWeb_mode : (s.onWeb f).mode = s.mode := rfl
@[simp] theorem State.onWeb_profile : (s.onWeb f).profile = s.profile := rfl
@[simp] theorem State.onWeb_command : (s.onWeb f).command = s.command := rfl
@[simp] theorem State.onWeb_report : (s.onWeb f).report = s.report := rfl
@[simp] theorem State.onWeb_test : (s.onWeb f).test = s.test := rfl
@[simp] theorem State.onWeb_mem : (s.onWeb f).mem = s.mem := rfl
@[simp] theorem State.onWeb_freeCount : (s.onWeb f).freeCount = s.freeCount := rfl
@[simp] theorem State.onWeb_pending : (s.onWeb f).pending = s.pending := rfl
@[simp] theorem State.onWeb_readMem (a : Word) : (s.onWeb f).readMem a = s.readMem a := rfl
end

section
variable (f : ModeUnit → ModeUnit) (s : State)
@[simp] theorem State.onMode_pins : (s.onMode f).pins = s.pins := rfl
@[simp] theorem State.onMode_path : (s.onMode f).path = s.path := rfl
@[simp] theorem State.onMode_arbiter : (s.onMode f).arbiter = s.arbiter := rfl
@[simp] theorem State.onMode_chan : (s.onMode f).chan = s.chan := rfl
@[simp] theorem State.onMode_speed : (s.onMode f).speed = s.speed := rfl
@[simp] theorem State.onMode_ramp : (s.onMode f).ramp = s.ramp := rfl
@[simp] theorem State.onMode_web : (s.onMode f).web = s.web := rfl
@[simp] theorem State.onMode_mode : (s.onMode f).mode = f s.mode := rfl
@[simp] theorem State.onMode_profile : (s.onMode f).profile = s.profile := rfl
@[simp] theorem State.onMode_command : (s.onMode f).command = s.command := rfl
@[simp] theorem State.onMode_report : (s.onMode f).report = s.report := rfl
@[simp] theorem State.onMode_test : (s.onMode f).test = s.test := rfl
@[simp] theorem State.onMode_mem : (s.onMode f).mem = s.mem := rfl
@[simp] theorem State.onMode_freeCount : (s.onMode f).freeCount = s.freeCount := rfl
@[simp] theorem State.onMode_pending : (s.onMode f).pending = s.pending := rfl
@[simp] theorem State.onMode_readMem (a : Word) : (s.onMode f).readMem a = s.readMem a := rfl
end

section
variable (f : ProfileUnit → ProfileUnit) (s : State)
@[simp] theorem State.onProfile_pins : (s.onProfile f).pins = s.pins := rfl
@[simp] theorem State.onProfile_path : (s.onProfile f).path = s.path := rfl
@[simp] theorem State.onProfile_arbiter : (s.onProfile f).arbiter = s.arbiter := rfl
@[simp] theorem State.onProfile_chan : (s.onProfile f).chan = s.chan := rfl
@[simp] theorem State.onProfile_speed : (s.onProfile f).speed = s.speed := rfl
@[simp] theorem State.onProfile_ramp : (s.onProfile f).ramp = s.ramp := rfl
@[simp] theorem State.onProfile_web : (s.onProfile f).web = s.web := rfl
@[simp] theorem State.onProfile_mode : (s.onProfile f).mode = s.mode := rfl
@[simp] theorem State.onProfile_profile : (s.onProfile f).profile = f s.profile := rfl
@[simp] theorem State.onProfile_command : (s.onProfile f).command = s.command := rfl
@[simp] theorem State.onProfile_report : (s.onProfile f).report = s.report := rfl
@[simp] theorem State.onProfile_test : (s.onProfile f).test = s.test := rfl
@[simp] theorem State.onProfile_mem : (s.onProfile f).mem = s.mem := rfl
@[simp] theorem State.onProfile_freeCount : (s.onProfile f).freeCount = s.freeCount := rfl
@[simp] theorem State.onProfile_pending : (s.onProfile f).pending = s.pending := rfl
@[simp] theorem State.onProfile_readMem (a : Word) : (s.onProfile f).readMem a = s.readMem a := rfl
end

section
variable (f : CommandUnit → CommandUnit) (s : State)
@[simp] theorem State.onCommand_pins : (s.onCommand f).pins = s.pins := rfl
@[simp] theorem State.onCommand_path : (s.onCommand f).path = s.path := rfl
@[simp] theorem State.onCommand_arbiter : (s.onCommand f).arbiter = s.arbiter := rfl
@[simp] theorem State.onCommand_chan : (s.onCommand f).chan = s.chan := rfl
@[simp] theorem State.onCommand_speed : (s.onCommand f).speed = s.speed := rfl
@[simp] theorem State.onCommand_ramp : (s.onCommand f).ramp = s.ramp := rfl
@[simp] theorem State.onCommand_web : (s.onCommand f).web = s.web := rfl
@[simp] theorem State.onCommand_mode : (s.onCommand f).mode = s.mode := rfl
@[simp] theorem State.onCommand_profile : (s.onCommand f).profile = s.profile := rfl
@[simp] theorem State.onCommand_command : (s.onCommand f).command = f s.command := rfl
@[simp] theorem State.onCommand_report : (s.onCommand f).report = s.report := rfl
@[simp] theorem State.onCommand_test : (s.onCommand f).test = s.test := rfl
@[simp] theorem State.onCommand_mem : (s.onCommand f).mem = s.mem := rfl
@[simp] theorem State.onCommand_freeCount : (s.onCommand f).freeCount = s.freeCount := rfl
@[simp] theorem State.onCommand_pending : (s.onCommand f).pending = s.pending := rfl
@[simp] theorem State.onCommand_readMem (a : Word) : (s.onCommand f).readMem a = s.readMem a := rfl
end

section
variable (f : ReportUnit → ReportUnit) (s : State)
@[simp] theorem State.onReport_pins : (s.onReport f).pins = s.pins := rfl
@[simp] theorem State.onReport_path : (s.onReport f).path = s.path := rfl
@[simp] theorem State.onReport_arbiter : (s.onReport f).arbiter = s.arbiter := rfl
@[simp] theorem State.onReport_chan : (s.onReport f).chan = s.chan := rfl
@[simp] theorem State.onReport_speed : (s.onReport f).speed = s.speed := rfl
@[simp] theorem State.onReport_ramp : (s.onReport f).ramp = s.ramp := rfl
@[simp] theorem State.onReport_web : (s.onReport f).web = s.web := rfl
@[simp] theorem State.onReport_mode : (s.onReport f).mode = s.mode := rfl
@[simp] theorem State.onReport_profile : (s.onReport f).profile = s.profile := rfl
@[simp] theorem State.onReport_command : (s.onReport f).command = s.command := rfl
@[simp] theorem State.onReport_report : (s.onReport f).report = f s.report := rfl
@[simp] theorem State.onReport_test : (s.onReport f).test = s.test := rfl
@[simp] theorem State.onReport_mem : (s.onReport f).mem = s.mem := rfl
@[simp] theorem State.onReport_freeCount : (s.onReport f).freeCount = s.freeCount := rfl
@[simp] theorem State.onReport_pending : (s.onReport f).pending = s.pending := rfl
@[simp] theorem State.onReport_readMem (a : Word) : (s.onReport f).readMem a = s.readMem a := rfl
end

section
variable (f : TestUnit → TestUnit) (s : State)
@[simp] theorem State.onTest_pins : (s.onTest f).pins = s.pins := rfl
@[simp] theorem State.onTest_path : (s.onTest f).path = s.path := rfl
@[simp] theorem State.onTest_arbiter : (s.onTest f).arbiter = s.arbiter := rfl
@[simp] theorem State.onTest_chan : (s.onTest f).chan = s.chan := rfl
@[simp] theorem State.onTest_speed : (s.onTest f).speed = s.speed := rfl
@[simp] theorem State.onTest_ramp : (s.onTest f).ramp = s.ramp := rfl
@[simp] theorem State.onTest_web : (s.onTest f).web = s.web := rfl
@[simp] theorem State.onTest_mode : (s.onTest f).mode = s.mode := rfl
@[simp] theorem State.onTest_profile : (s.onTest f).profile = s.profile := rfl
@[simp] theorem State.onTest_command : (s.onTest f).command = s.command := rfl
@[simp] theorem State.onTest_report : (s.onTest f).report = s.report := rfl
@[simp] theorem State.onTest_test : (s.onTest f).test = f s.test := rfl
@[simp] theorem State.onTest_mem : (s.onTest f).mem = s.mem := rfl
@[simp] theorem State.onTest_freeCount : (s.onTest f).freeCount = s.freeCount := rfl
@[simp] theorem State.onTest_pending : (s.onTest f).pending = s.pending := rfl
@[simp] theorem State.onTest_readMem (a : Word) : (s.onTest f).readMem a = s.readMem a := rfl
end

section
variable (addr value : Word) (s : State)
@[simp] theorem State.writeMem_pins : (s.writeMem addr value).pins = s.pins := rfl
@[simp] theorem State.writeMem_path : (s.writeMem addr value).path = s.path := rfl
@[simp] theorem State.writeMem_arbiter : (s.writeMem addr value).arbiter = s.arbiter := rfl
@[simp] theorem State.writeMem_chan : (s.writeMem addr value).chan = s.chan := rfl
@[simp] theorem State.writeMem_speed : (s.writeMem addr value).speed = s.speed := rfl
@[simp] theorem State.writeMem_ramp : (s.writeMem addr value).ramp = s.ramp := rfl
@[simp] theorem State.writeMem_web : (s.writeMem addr value).web = s.web := rfl
@[simp] theorem State.writeMem_mode : (s.writeMem addr value).mode = s.mode := rfl
@[simp] theorem State.writeMem_profile : (s.writeMem addr value).profile = s.profile := rfl
@[simp] theorem State.writeMem_command : (s.writeMem addr value).command = s.command := rfl
@[simp] theorem State.writeMem_report : (s.writeMem addr value).report = s.report := rfl
@[simp] theorem State.writeMem_test : (s.writeMem addr value).test = s.test := rfl
@[simp] theorem State.writeMem_mem : (s.writeMem addr value).mem = Memory.writeAt s.mem addr.toNat value := rfl
@[simp] theorem State.writeMem_freeCount : (s.writeMem addr value).freeCount = s.freeCount := rfl
@[simp] theorem State.writeMem_pending : (s.writeMem addr value).pending = s.pending := rfl
end

end Sys2Proof.Machine
end

