-- ==== Sys2Proof/Laws/Report.lean ====
section
/-! SUPPORT. What the report unit's operations do: handing a word on, events, causes. Each changes the report
unit alone and keeps its indices, copies, timestamp, threshold and tag. -/

namespace Sys2Proof.Machine

/-- Only the lists, the lost count, the latches, the fresh marks and ATTN may differ. -/
structure Reports (s t : State) : Prop where
  frame : t = { s with report := t.report }
  kept : ReportKept s t

namespace Reports

theorem refl (s : State) : Reports s s := ⟨rfl, rfl⟩

theorem trans {s t u : State} (h : Reports s t) (k : Reports t u) : Reports s u := by
  obtain ⟨h, h'⟩ := h
  obtain ⟨k, k'⟩ := k
  refine ⟨by rw [k, h], ?_⟩
  show u.report = _
  rw [k', h']

end Reports

/-! ### The mirror list -/

theorem mirrorPut_addrs (a v : Word) (l : List MirrorEntry) :
    (mirrorPut a v l).map (·.addr) =
      if a ∈ l.map (·.addr) then l.map (·.addr) else l.map (·.addr) ++ [a] := by
  induction l with
  | nil => rfl
  | cons e l ih =>
    simp only [mirrorPut]
    split
    · split <;> simp_all
    · simp only [List.map_cons, ih, List.mem_cons]
      grind

theorem mirrorPut_nodup (a v : Word) {l : List MirrorEntry} (h : (l.map (·.addr)).Nodup) :
    ((mirrorPut a v l).map (·.addr)).Nodup := by
  rw [mirrorPut_addrs]
  split
  · exact h
  · simp only [List.nodup_append, List.nodup_cons]
    grind

theorem find_mirrorPut (a v b : Word) (l : List MirrorEntry) :
    ((mirrorPut a v l).find? fun e => decide (e.addr = b)).map MirrorEntry.newest =
      if b = a then some v else (l.find? fun e => decide (e.addr = b)).map MirrorEntry.newest := by
  induction l with
  | nil => simp only [mirrorPut, List.find?]; grind [MirrorEntry.newest]
  | cons e l ih =>
    simp only [mirrorPut]
    split
    · split <;> simp only [List.find?] <;> grind [MirrorEntry.newest]
    · simp only [List.find?]; grind

/-! ### Handing a word on -/

section
variable (a v : Word) (s : State)

theorem handWord_reports : Reports s (handWord a v s) := ⟨rfl, rfl⟩

/-- Handing a word on sets what waits for that word and for no other. -/
@[simp] theorem handWord_waiting (b : Word) :
    (handWord a v s).report.waiting b = if b = a then some v else s.report.waiting b :=
  find_mirrorPut a v b _

@[simp] theorem handWord_ring : (handWord a v s).report.ring = s.report.ring := rfl
@[simp] theorem handWord_lost : (handWord a v s).report.lost = s.report.lost := rfl
@[simp] theorem handWord_latches : (handWord a v s).report.latches = s.report.latches := rfl
@[simp] theorem handWord_fresh : (handWord a v s).report.fresh = s.report.fresh := rfl
@[simp] theorem handWord_attn : (handWord a v s).report.attn = s.report.attn := rfl

theorem handWord_mirrorLaw (h : MirrorLaw s) : MirrorLaw (handWord a v s) := mirrorPut_nodup a v h

end

/-- A word is handed on if it changed, and nothing happens if it did not. -/
theorem refreshWord_cases (a : Word) (view : State → Word) (before s : State) :
    (view before = view s ∧ refreshWord a view before s = s) ∨
      (view before ≠ view s ∧ refreshWord a view before s = handWord a (view s) s) := by
  unfold refreshWord
  split
  · exact .inl ⟨‹_›, rfl⟩
  · exact .inr ⟨‹_›, rfl⟩

section
variable (a : Word) (view : State → Word) (before s : State)

theorem refreshWord_reports : Reports s (refreshWord a view before s) := by
  rcases refreshWord_cases a view before s with ⟨-, h⟩ | ⟨-, h⟩ <;> rw [h]
  · exact .refl s
  · exact handWord_reports a _ s

@[simp] theorem refreshWord_ring : (refreshWord a view before s).report.ring = s.report.ring := by
  rcases refreshWord_cases a view before s with ⟨-, h⟩ | ⟨-, h⟩ <;> simp [h]
@[simp] theorem refreshWord_lost : (refreshWord a view before s).report.lost = s.report.lost := by
  rcases refreshWord_cases a view before s with ⟨-, h⟩ | ⟨-, h⟩ <;> simp [h]
@[simp] theorem refreshWord_latches :
    (refreshWord a view before s).report.latches = s.report.latches := by
  rcases refreshWord_cases a view before s with ⟨-, h⟩ | ⟨-, h⟩ <;> simp [h]
@[simp] theorem refreshWord_fresh : (refreshWord a view before s).report.fresh = s.report.fresh := by
  rcases refreshWord_cases a view before s with ⟨-, h⟩ | ⟨-, h⟩ <;> simp [h]
@[simp] theorem refreshWord_attn : (refreshWord a view before s).report.attn = s.report.attn := by
  rcases refreshWord_cases a view before s with ⟨-, h⟩ | ⟨-, h⟩ <;> simp [h]

theorem refreshWord_mirrorLaw (h : MirrorLaw s) : MirrorLaw (refreshWord a view before s) := by
  rcases refreshWord_cases a view before s with ⟨-, e⟩ | ⟨-, e⟩ <;> rw [e]
  · exact h
  · exact handWord_mirrorLaw a _ s h

end

/-! ### Attention -/

section
variable (l f : BitVec 8) (s : State)

theorem setLatches_reports : Reports s (setLatches l f s) := ⟨rfl, rfl⟩

@[simp] theorem setLatches_latches : (setLatches l f s).report.latches = l := rfl
@[simp] theorem setLatches_fresh : (setLatches l f s).report.fresh = f := rfl
@[simp] theorem setLatches_ring : (setLatches l f s).report.ring = s.report.ring := rfl
@[simp] theorem setLatches_lost : (setLatches l f s).report.lost = s.report.lost := rfl

theorem setLatches_attn :
    (setLatches l f s).report.attn = (setLatches l f s).report.attnLevel := rfl

/-- The new summary word waits, and what waits for every other word is as before. -/
@[simp] theorem setLatches_waiting (b : Word) :
    (setLatches l f s).report.waiting b =
      if b = 0x004F then some (l.zeroExtend 16) else s.report.waiting b :=
  find_mirrorPut 0x004F _ b _

theorem setLatches_attnLaw : AttnLaw (setLatches l f s) := by
  show decide _ = true ↔ _
  simp [setLatches]

theorem setLatches_mirrorLaw (h : MirrorLaw s) : MirrorLaw (setLatches l f s) :=
  mirrorPut_nodup _ _ h

end

section
variable (c : Cause) (s : State)

theorem latchCause_reports : Reports s (latchCause c s) := setLatches_reports _ _ s

/-- An occurrence latches its cause with its fresh mark, and ATTN follows. -/
theorem latchCause_latches : Latches c.bit s (latchCause c s) := ⟨rfl, rfl, rfl⟩

@[simp] theorem latchCause_ring : (latchCause c s).report.ring = s.report.ring := rfl
@[simp] theorem latchCause_lost : (latchCause c s).report.lost = s.report.lost := rfl

theorem latchCause_attnLaw : AttnLaw (latchCause c s) := setLatches_attnLaw _ _ s
theorem latchCause_mirrorLaw (h : MirrorLaw s) : MirrorLaw (latchCause c s) :=
  setLatches_mirrorLaw _ _ s h

theorem clearCauses_reports (bits : BitVec 8) : Reports s (clearCauses bits s) := by
  unfold clearCauses
  split
  · exact .refl s
  · exact setLatches_reports _ _ s

end

/-! ### Events -/

section
variable (head : Word) (details : List (Word × Word)) (s : State)

/-- An event is appended whole, or dropped whole and counted. -/
theorem appendEvent_cases :
    (s.report.unread + s.report.ring.length + details.length ≤ 63 ∧
      appendEvent head details s = s.onReport fun r => { r with
        ring := r.ring ++
          ringRecords head (wordOf r.timestamp) (r.writeIndex + r.ring.length) details }) ∨
    (63 < s.report.unread + s.report.ring.length + details.length ∧
      appendEvent head details s =
        handWord 0x0051 (wordOf (saturate (s.report.lost + details.length)))
          (s.onReport fun r => { r with lost := saturate (s.report.lost + details.length) })) := by
  unfold appendEvent
  simp only
  split
  · exact .inl ⟨‹_›, rfl⟩
  · exact .inr ⟨by omega, rfl⟩

theorem appendEvent_reports : Reports s (appendEvent head details s) := by
  rcases appendEvent_cases head details s with ⟨-, h⟩ | ⟨-, h⟩ <;> rw [h]
  · exact ⟨rfl, rfl⟩
  · exact ⟨rfl, rfl⟩

@[simp] theorem appendEvent_latches :
    (appendEvent head details s).report.latches = s.report.latches := by
  rcases appendEvent_cases head details s with ⟨-, h⟩ | ⟨-, h⟩ <;> rw [h] <;> rfl
@[simp] theorem appendEvent_fresh :
    (appendEvent head details s).report.fresh = s.report.fresh := by
  rcases appendEvent_cases head details s with ⟨-, h⟩ | ⟨-, h⟩ <;> rw [h] <;> rfl
@[simp] theorem appendEvent_attn : (appendEvent head details s).report.attn = s.report.attn := by
  rcases appendEvent_cases head details s with ⟨-, h⟩ | ⟨-, h⟩ <;> rw [h] <;> rfl

/-- An event hands on no word but the lost count. -/
theorem appendEvent_waiting (b : Word) (h : b ≠ 0x0051) :
    (appendEvent head details s).report.waiting b = s.report.waiting b := by
  rcases appendEvent_cases head details s with ⟨-, e⟩ | ⟨-, e⟩ <;> rw [e]
  · rfl
  · simp only [handWord_waiting, if_neg h]; rfl

theorem appendEvent_mirrorLaw (h : MirrorLaw s) : MirrorLaw (appendEvent head details s) := by
  rcases appendEvent_cases head details s with ⟨-, e⟩ | ⟨-, e⟩ <;> rw [e]
  · exact h
  · exact handWord_mirrorLaw _ _ _ h

/-- Which records an event adds or drops depends only on the indices, the list and the lost count. -/
theorem appendEvent_sameLog {s u : State} (hr : s.report.ring = u.report.ring)
    (hl : s.report.lost = u.report.lost) (hk : ReportKept u s) :
    SameLog (appendEvent head details u) (appendEvent head details s) := by
  have hw : s.report.writeIndex = u.report.writeIndex := by rw [hk]
  have hi : s.report.readIndex = u.report.readIndex := by rw [hk]
  have ht : s.report.timestamp = u.report.timestamp := by rw [hk]
  have hu : s.report.unread = u.report.unread := by unfold ReportUnit.unread; rw [hw, hi]
  rcases appendEvent_cases head details s with ⟨h, e⟩ | ⟨h, e⟩ <;>
    rcases appendEvent_cases head details u with ⟨h', e'⟩ | ⟨h', e'⟩ <;> rw [e, e']
  · constructor
    · show s.report.ring ++ _ = u.report.ring ++ _; rw [hr, hw, ht]
    · exact hl
  · rw [hu, hr] at h; omega
  · rw [hu, hr] at h; omega
  · exact ⟨hr, by show saturate _ = saturate _; rw [hl]⟩

end

theorem recordEvent_reports (k : EventKind) (web a b : Nat) (s : State) :
    Reports s (recordEvent k web a b s) := appendEvent_reports _ _ s

theorem recordClampNote_reports (o : Owner) (i : Nat) (ob : Bool) (h t : Nat) (s : State) :
    Reports s (recordClampNote o i ob h t s) := appendEvent_reports _ _ s

theorem answer_command (code : Nat) (res : CommandResult) (d1 d2 : Nat) (s : State) :
    (answer code res d1 d2 s).command = { s.command with
      result := wordOf (res.code + 256 * Nat.min code 255)
      detail1 := wordOf d1
      detail2 := wordOf d2 } := rfl

/-- An answer changes the three result words and the report unit alone. -/
theorem answer_frame (code : Nat) (res : CommandResult) (d1 d2 : Nat) (s : State) :
    answer code res d1 d2 s =
      { s with
        command := (answer code res d1 d2 s).command, report := (answer code res d1 d2 s).report } ∧
      ReportKept s (answer code res d1 d2 s) ∧ SameLog s (answer code res d1 d2 s) ∧
      Latches Cause.command.bit s (answer code res d1 d2 s) :=
  ⟨rfl, rfl, ⟨rfl, rfl⟩, rfl, rfl, rfl⟩

/-- An answer waits on the mirror list in its three words, and the summary in its own. -/
theorem answer_waiting (code : Nat) (res : CommandResult) (d1 d2 : Nat) (s : State) (a : Word) :
    (answer code res d1 d2 s).report.waiting a =
      if a = 0x004F then some ((s.report.latches ||| Cause.command.bit).zeroExtend 16)
      else if a = 0x004B then some (wordOf d2)
      else if a = 0x004A then some (wordOf d1)
      else if a = 0x0049 then some (wordOf (res.code + 256 * Nat.min code 255))
      else s.report.waiting a := by
  unfold answer latchCause writeResult
  rw [setLatches_waiting]
  simp only [handWord_waiting]
  rfl

end Sys2Proof.Machine
end

