-- ==== Sys2Proof/Laws/Queue.lean ====
section
/-! SUPPORT. What the operations on the impose queue do (spec 04): the units they can change, the queue they
leave, and the laws of the queue that they keep. -/

namespace Sys2Proof.Machine

/-! ### The mode unit's DRYHOLD level -/

section
variable (f : ModeUnit → ModeUnit) (s : State)

/-- A change of the mode unit changes nothing else but what waits on the mirror list. -/
theorem updMode_frame : updMode f s =
    { s with mode := f s.mode, report := { s.report with mirror := (updMode f s).report.mirror } } := by
  unfold updMode
  rcases refreshWord_cases 0x0045 State.causesWord s
      (refreshWord 0x0044 State.modeWord s (s.onMode f)) with ⟨-, h⟩ | ⟨-, h⟩ <;>
    rcases refreshWord_cases 0x0044 State.modeWord s (s.onMode f) with ⟨-, k⟩ | ⟨-, k⟩ <;>
    rw [h, k] <;> rfl

@[simp] theorem updMode_mode : (updMode f s).mode = f s.mode := by rw [updMode_frame]

theorem updMode_mirrorLaw (h : MirrorLaw s) : MirrorLaw (updMode f s) :=
  refreshWord_mirrorLaw _ _ _ _ (refreshWord_mirrorLaw _ _ _ _ h)

/-- Deriving DRYHOLD sets the level, and what waits on the mirror list; nothing else changes. -/
theorem deriveDryhold_frame : deriveDryhold s =
    { s with
      mode := { s.mode with dryhold := s.dryholdLevel }
      report := { s.report with mirror := (deriveDryhold s).report.mirror } } :=
  updMode_frame _ s

@[simp] theorem deriveDryhold_mode :
    (deriveDryhold s).mode = { s.mode with dryhold := s.dryholdLevel } := updMode_mode _ s

/-- Deriving DRYHOLD establishes its law. -/
theorem deriveDryhold_law : DryholdLaw (deriveDryhold s) := by
  rw [deriveDryhold_frame]
  unfold DryholdLaw
  simp only [State.dryholdLevel, Bool.or_eq_true, decide_eq_true_eq, or_assoc]

end

/-! ### What the queue's operations can change -/

/-- Only the queue, the stall timer and flag, the DRYHOLD level and the lists and the lost count of the report
unit may differ. -/
structure QueueFrame (s t : State) : Prop where
  frame : t = { s with ramp := t.ramp, mode := t.mode, report := t.report }
  ramp : t.ramp = { s.ramp with
    queue := t.ramp.queue, stallTimer := t.ramp.stallTimer, stallFlag := t.ramp.stallFlag }
  mode : ModeKept s t
  report : ReportKept s t
  latches : SameLatches s t
  mirror : MirrorLaw s → MirrorLaw t

/-- A queue operation: with the stall flag clear, neither the flag, nor DRYHOLD, nor the log differs. -/
structure Queues (s t : State) : Prop extends QueueFrame s t where
  calm : s.ramp.stallFlag = false → t.ramp.stallFlag = false ∧ t.mode = s.mode ∧ SameLog s t

theorem QueueFrame.trans {s t u : State} (h : QueueFrame s t) (k : QueueFrame t u) : QueueFrame s u where
  frame := by rw [k.frame, h.frame]
  ramp := by rw [k.ramp, h.ramp]
  mode := by show u.mode = _; rw [k.mode, h.mode]
  report := by show u.report = _; rw [k.report, h.report]
  latches := ⟨k.latches.1.trans h.latches.1, k.latches.2.1.trans h.latches.2.1,
    k.latches.2.2.trans h.latches.2.2⟩
  mirror l := k.mirror (h.mirror l)

namespace Queues

theorem refl (s : State) : Queues s s :=
  ⟨⟨rfl, rfl, rfl, rfl, ⟨rfl, rfl, rfl⟩, id⟩, fun h => ⟨h, rfl, rfl, rfl⟩⟩

theorem trans {s t u : State} (h : Queues s t) (k : Queues t u) : Queues s u where
  toQueueFrame := h.toQueueFrame.trans k.toQueueFrame
  calm e := by
    obtain ⟨a, b, c, d⟩ := h.calm e
    obtain ⟨a', b', c', d'⟩ := k.calm a
    exact ⟨a', b'.trans b, c'.trans c, d'.trans d⟩

variable {s t : State} (h : Queues s t)
include h

theorem chan : t.chan = s.chan := by rw [h.frame]
theorem web : t.web = s.web := by rw [h.frame]
theorem speed : t.speed = s.speed := by rw [h.frame]
theorem mem : t.mem = s.mem := by rw [h.frame]
theorem modeIs : t.mode.mode = s.mode.mode := by rw [h.mode]
theorem chanAt (i : Nat) : t.chanAt i = s.chanAt i := by unfold State.chanAt; rw [h.chan]
theorem gov (c : Channel) : t.gov c = s.gov c := by
  unfold State.gov State.governing; rw [h.web]
theorem targetOf (c : Channel) : t.targetOf c = s.targetOf c := by
  unfold State.targetOf State.bandOf; rw [h.modeIs, h.gov, h.speed]
theorem queues : t.queues = s.queues := by unfold State.queues; rw [h.modeIs]
theorem targetLaw (k : TargetLaw s) : TargetLaw t := by
  intro c hc he
  rw [h.targetOf c]
  exact k c (h.chan ▸ hc) he

end Queues

theorem handWord_queues (a v : Word) (s : State) : Queues s (handWord a v s) :=
  ⟨⟨rfl, rfl, rfl, rfl, ⟨rfl, rfl, rfl⟩, handWord_mirrorLaw a v s⟩, fun h => ⟨h, rfl, rfl, rfl⟩⟩

theorem refreshWord_queues (a : Word) (view : State → Word) (before s : State) :
    Queues s (refreshWord a view before s) := by
  rcases refreshWord_cases a view before s with ⟨-, h⟩ | ⟨-, h⟩ <;> rw [h]
  · exact .refl s
  · exact handWord_queues a _ s

/-- The queue and its stall timer take a value. -/
theorem onRamp_queues (q : List QueueEntry) (x : Timer) (s : State) :
    Queues s (s.onRamp fun u => { u with queue := q, stallTimer := x }) :=
  ⟨⟨rfl, rfl, rfl, rfl, ⟨rfl, rfl, rfl⟩, id⟩, fun h => ⟨h, rfl, rfl, rfl⟩⟩

section
variable (i value : Nat) (pin : Bool) (s : State)

theorem joinQueue_queues : Queues s (joinQueue i value pin s) :=
  (onRamp_queues _ _ s).trans ((refreshWord_queues _ _ _ _).trans (handWord_queues _ _ _))

theorem leaveQueue_queues : Queues s (leaveQueue i s) :=
  (onRamp_queues _ s.ramp.stallTimer s).trans
    ((refreshWord_queues _ _ _ _).trans (handWord_queues _ _ _))

@[simp] theorem joinQueue_ramp : (joinQueue i value pin s).ramp = { s.ramp with
    queue := s.ramp.queue ++ [⟨i, value, false, pin⟩]
    stallTimer := if s.ramp.queue = [] then some s.ramp.gapTimeout else s.ramp.stallTimer } := by
  unfold joinQueue handDepth refreshChan
  rcases refreshWord_cases (chanWordAddr i) (fun t => t.chanWord i) s (s.onRamp fun u => { u with
    queue := u.queue ++ [⟨i, value, false, pin⟩]
    stallTimer := if u.queue = [] then some u.gapTimeout else u.stallTimer }) with ⟨-, h⟩ | ⟨-, h⟩ <;>
    rw [h] <;> rfl

@[simp] theorem leaveQueue_ramp :
    (leaveQueue i s).ramp = { s.ramp with queue := dropEntry i s.ramp.queue } := by
  unfold leaveQueue handDepth refreshChan
  rcases refreshWord_cases (chanWordAddr i) (fun t => t.chanWord i) s (s.onRamp fun u => { u with
    queue := dropEntry i u.queue }) with ⟨-, h⟩ | ⟨-, h⟩ <;> rw [h] <;> rfl

end

theorem recordEvent_queueFrame (k : EventKind) (web a b : Nat) (s : State) :
    QueueFrame s (recordEvent k web a b s) := by
  have h := recordEvent_reports k web a b s
  refine ⟨?_, ?_, ?_, h.kept, ⟨appendEvent_latches .., appendEvent_fresh .., appendEvent_attn ..⟩,
    appendEvent_mirrorLaw _ _ s⟩ <;> rw [h.frame]

theorem deriveDryhold_queueFrame (s : State) : QueueFrame s (deriveDryhold s) := by
  refine ⟨?_, ?_, ?_, ?_, ?_, updMode_mirrorLaw _ s⟩
  · rw [deriveDryhold_frame]
  · rw [deriveDryhold_frame]
  · show (deriveDryhold s).mode = _; rw [deriveDryhold_mode]
  · show (deriveDryhold s).report = _; rw [deriveDryhold_frame]
  · rw [deriveDryhold_frame]; exact ⟨rfl, rfl, rfl⟩

theorem setStallFlag_false_queues (s : State) : Queues s (setStallFlag false s) :=
  .trans (t := s.onRamp fun u => { u with stallFlag := false })
    ⟨⟨rfl, rfl, rfl, rfl, ⟨rfl, rfl, rfl⟩, id⟩, fun _ => ⟨rfl, rfl, rfl, rfl⟩⟩ (refreshWord_queues _ _ _ _)

@[simp] theorem setStallFlag_ramp (b : Bool) (s : State) :
    (setStallFlag b s).ramp = { s.ramp with stallFlag := b } := by
  unfold setStallFlag
  rcases refreshWord_cases 0x0055 State.stallWord s
    (s.onRamp fun u => { u with stallFlag := b }) with ⟨-, h⟩ | ⟨-, h⟩ <;> rw [h] <;> rfl

theorem queueEmptied_queues (d : Nat) (s : State) : Queues s (queueEmptied d s) := by
  have h : Queues s (s.onRamp fun u => { u with stallTimer := none }) :=
    onRamp_queues s.ramp.queue none s
  unfold queueEmptied
  simp only
  split
  · rename_i e
    refine ⟨h.toQueueFrame.trans ((setStallFlag_false_queues _).toQueueFrame.trans
      ((recordEvent_queueFrame ..).trans (deriveDryhold_queueFrame _))), fun k => ?_⟩
    simp [k] at e
  · exact h

/-- A queue that has become empty stops the stall timer and clears the stall flag. -/
@[simp] theorem queueEmptied_ramp (d : Nat) (s : State) :
    (queueEmptied d s).ramp = { s.ramp with stallTimer := none, stallFlag := false } := by
  unfold queueEmptied
  simp only
  split
  · rw [deriveDryhold_frame]
    show (recordEvent _ _ _ _ _).ramp = _
    rw [(recordEvent_reports ..).frame]
    simp
  · rename_i e
    simp only [State.onRamp_ramp, Bool.not_eq_true] at e
    simp [← e]

theorem ifEmptied_queues (d : Nat) (s : State) : Queues s (ifEmptied d s) := by
  unfold ifEmptied
  split
  · exact queueEmptied_queues d s
  · exact .refl s

@[simp] theorem ifEmptied_queue (d : Nat) (s : State) :
    (ifEmptied d s).ramp.queue = s.ramp.queue := by
  unfold ifEmptied
  split <;> simp

theorem removeEntry_queues (i : Nat) (s : State) : Queues s (removeEntry i s) := by
  unfold removeEntry
  split
  · exact .refl s
  · split
    · exact .refl s
    · exact (leaveQueue_queues i s).trans (ifEmptied_queues 1 _)

theorem putEntry_queues (i value : Nat) (pin : Bool) (s : State) : Queues s (putEntry i value pin s) := by
  unfold putEntry
  split
  · exact joinQueue_queues i value pin s
  · split
    · exact .refl s
    · exact onRamp_queues _ s.ramp.stallTimer s

theorem foldl_refreshChan_queues (l : List QueueEntry) (s t : State) :
    Queues t (l.foldl (fun t e => refreshChan e.channel s t) t) := by
  induction l generalizing t with
  | nil => exact .refl t
  | cons e l ih => exact (refreshWord_queues _ _ s t).trans (ih _)

theorem emptyQueue_queues (s : State) : Queues s (emptyQueue s) := by
  unfold emptyQueue
  split
  · exact .refl s
  · exact (onRamp_queues [] s.ramp.stallTimer s).trans ((foldl_refreshChan_queues _ s _).trans
      ((handWord_queues _ _ _).trans (queueEmptied_queues 1 _)))

/-! ### The queue that each operation leaves -/

section
variable (i value : Nat) (pin : Bool) (s : State)

/-- A value is queued at the tail, in the place of the channel's entry, or not at all if that is granted. -/
theorem putEntry_queue : (putEntry i value pin s).ramp.queue =
    match pendingOf i s.ramp.queue with
    | none => s.ramp.queue ++ [⟨i, value, false, pin⟩]
    | some e => if e.granted then s.ramp.queue else replaceEntry i value pin s.ramp.queue := by
  unfold putEntry
  cases pendingOf i s.ramp.queue with
  | none => simp
  | some e => cases h : e.granted <;> simp [h]

/-- A waiting entry is removed, a granted one is not. -/
theorem removeEntry_queue : (removeEntry i s).ramp.queue =
    if s.entryGranted i then s.ramp.queue else dropEntry i s.ramp.queue := by
  unfold removeEntry State.entryGranted
  split
  · rename_i h
    simp only [h, Option.map_none, Option.getD_none, Bool.false_eq_true, if_false]
    have : ∀ e ∈ s.ramp.queue, e.channel ≠ i := by
      simpa [pendingOf, List.find?_eq_none] using h
    exact (List.filter_eq_self.mpr (by simpa using this)).symm
  · rename_i e h
    simp only [h, Option.map_some, Option.getD_some]
    split <;> simp

end

@[simp] theorem foldl_refreshChan_ramp (l : List QueueEntry) (s t : State) :
    (l.foldl (fun t e => refreshChan e.channel s t) t).ramp = t.ramp := by
  induction l generalizing t with
  | nil => rfl
  | cons e l ih =>
    rw [List.foldl_cons, ih]
    unfold refreshChan
    rcases refreshWord_cases (chanWordAddr e.channel) (fun t => t.chanWord e.channel) s t with
      ⟨-, h⟩ | ⟨-, h⟩ <;> rw [h] <;> rfl

@[simp] theorem emptyQueue_queue (s : State) : (emptyQueue s).ramp.queue = [] := by
  unfold emptyQueue
  split
  · assumption
  · simp [handDepth, handWord]

/-! ### Pending items -/

theorem pendingOf_replaceEntry (i value : Nat) (pin : Bool) (j : Nat) (q : List QueueEntry) :
    pendingOf j (replaceEntry i value pin q) =
      (pendingOf j q).map fun e => if e.channel = i then { e with value := value, pin := pin } else e := by
  induction q with
  | nil => rfl
  | cons e q ih =>
    simp only [pendingOf, replaceEntry, List.map_cons, List.find?] at ih ⊢
    grind

theorem pendingOf_dropEntry (i j : Nat) (q : List QueueEntry) :
    pendingOf j (dropEntry i q) = if j = i then none else pendingOf j q := by
  induction q with
  | nil => simp [pendingOf, dropEntry]
  | cons e q ih =>
    simp only [pendingOf, dropEntry, List.filter_cons, List.find?] at ih ⊢
    grind

theorem pendingOf_channel {i : Nat} {q : List QueueEntry} {e : QueueEntry} (h : pendingOf i q = some e) :
    e.channel = i := by simpa using List.find?_some h

/-- After a value is queued, the channel's entry holds it, unless it is granted; no other entry changes. -/
theorem putEntry_pending (i value : Nat) (pin : Bool) (j : Nat) (s : State) :
    pendingOf j (putEntry i value pin s).ramp.queue =
      if j = i ∧ s.entryGranted i = false then
        some ⟨i, value, false, pin⟩ else pendingOf j s.ramp.queue := by
  rw [putEntry_queue]
  unfold State.entryGranted
  split
  · rename_i h
    simp only [h, Option.map_none, Option.getD_none, and_true]
    unfold pendingOf at h ⊢
    rw [List.find?_append]
    by_cases e : j = i
    · subst e; simp [h]
    · have : i ≠ j := fun k => e k.symm
      simp [e, this]
  · rename_i e h
    have hc := pendingOf_channel h
    simp only [h, Option.map_some, Option.getD_some]
    split
    · simp_all
    · rw [pendingOf_replaceEntry]
      by_cases k : j = i
      · subst k; rw [h]; cases e; simp_all
      · simp only [k, false_and, if_false]
        cases hj : pendingOf j s.ramp.queue with
        | none => rfl
        | some d =>
          have := pendingOf_channel hj
          simp only [Option.map_some, Option.some.injEq]
          rw [if_neg]; omega

/-- After a removal the channel has no entry, unless it is granted; no other entry changes. -/
theorem removeEntry_pending (i j : Nat) (s : State) :
    pendingOf j (removeEntry i s).ramp.queue =
      if j = i ∧ s.entryGranted i = false then none else pendingOf j s.ramp.queue := by
  rw [removeEntry_queue]
  cases h : s.entryGranted i
  · simp only [Bool.false_eq_true, if_false, pendingOf_dropEntry, and_true]
  · simp

/-! ### The laws of the queue -/

theorem replaceEntry_channels (i value : Nat) (pin : Bool) (q : List QueueEntry) :
    (replaceEntry i value pin q).map (·.channel) = q.map (·.channel) := by
  unfold replaceEntry
  rw [List.map_map]
  exact List.map_congr_left fun e _ => by simp only [Function.comp]; split <;> rfl

/-- Queueing a value for a channel keeps one entry for a channel. -/
theorem putEntry_queueLaw {i value : Nat} {pin : Bool} {s : State} (h : QueueLaw s) (hi : (s.chanAt i).isSome = true) :
    QueueLaw (putEntry i value pin s) := by
  obtain ⟨h, k⟩ := h
  have q := putEntry_queues i value pin s
  unfold QueueLaw
  simp only [q.chanAt]
  rw [putEntry_queue]
  split
  · rename_i hn
    have : ∀ e ∈ s.ramp.queue, e.channel ≠ i := by simpa [pendingOf, List.find?_eq_none] using hn
    refine ⟨?_, ?_⟩
    · simp only [List.map_append, List.map_cons, List.map_nil, List.nodup_append]
      refine ⟨h, by simp, ?_⟩
      simp only [List.mem_map, List.mem_singleton]
      rintro a ⟨e, he, rfl⟩ b rfl
      exact this e he
    · intro e he
      rcases List.mem_append.mp he with he | he
      · exact k e he
      · rw [List.mem_singleton.mp he]; exact hi
  · split
    · exact ⟨h, k⟩
    · refine ⟨by rw [replaceEntry_channels]; exact h, fun e he => ?_⟩
      have : e.channel ∈ s.ramp.queue.map (·.channel) := by
        rw [← replaceEntry_channels i value pin]; exact List.mem_map_of_mem he
      obtain ⟨d, hd, hdc⟩ := List.mem_map.mp this
      exact hdc ▸ k d hd

theorem removeEntry_queueLaw {s : State} (i : Nat) (h : QueueLaw s) : QueueLaw (removeEntry i s) := by
  obtain ⟨h, k⟩ := h
  have q := removeEntry_queues i s
  unfold QueueLaw
  simp only [q.chanAt]
  rw [removeEntry_queue]
  split
  · exact ⟨h, k⟩
  · exact ⟨h.sublist (List.filter_sublist.map _), fun e he => k e (List.mem_filter.mp he).1⟩

/-- Queueing a value keeps the stall law. -/
theorem putEntry_stallLaw {s : State} (i value : Nat) (pin : Bool) (h : StallLaw s) : StallLaw (putEntry i value pin s) := by
  unfold putEntry
  split
  · unfold StallLaw at h ⊢
    simp only [joinQueue_ramp]
    split
    · simp
    · simp_all
  · split
    · exact h
    · rename_i e he _
      have : s.ramp.queue ≠ [] := by intro k; rw [k] at he; cases he
      unfold StallLaw at h ⊢
      simp only [State.onRamp_ramp, replaceEntry, ne_eq, List.map_eq_nil_iff]
      exact h

theorem removeEntry_stallLaw {s : State} (i : Nat) (h : StallLaw s) : StallLaw (removeEntry i s) := by
  unfold removeEntry
  split
  · exact h
  · split
    · exact h
    · rename_i e he _
      have : s.ramp.queue ≠ [] := by intro k; rw [k] at he; cases he
      have hs := h.mpr this
      unfold ifEmptied StallLaw
      split
      · rename_i hq
        simp only [leaveQueue_ramp] at hq
        simp [hq]
      · rename_i hq
        simp only [leaveQueue_ramp] at hq ⊢
        simpa [hq] using hs

theorem emptyQueue_stallLaw {s : State} (h : StallLaw s) : StallLaw (emptyQueue s) := by
  unfold emptyQueue
  split
  · exact h
  · unfold StallLaw; simp [handDepth, handWord]

end Sys2Proof.Machine
end

