-- ==== Sys2Proof/Laws/Channels.lean ====
section
/-! SUPPORT. What the operations of the channel unit can change (specs 02, 04; 5.6 of 05): aiming moves no
channel, and a change of webs, bands or mode that reaches the channels aims and settles only. -/

namespace Sys2Proof.Machine

/-! ### Doing something to a channel, and to each of a list -/

section
variable {R : State → State → Prop}

theorem withChan_rel (refl : ∀ s, R s s) {i : Nat} {f : Channel → State → State} {s : State}
    (h : ∀ c, s.chanAt i = some c → R s (f c s)) : R s (withChan i f s) := by
  unfold withChan
  split
  · exact refl s
  · exact h _ ‹_›

theorem forEach_rel (refl : ∀ s, R s s) (trans : ∀ {s t u}, R s t → R t u → R s u)
    {f : Nat → State → State} (h : ∀ i s, R s (f i s)) (ids : List Nat) (s : State) :
    R s (forEach ids f s) := by
  unfold forEach
  induction ids generalizing s with
  | nil => exact refl s
  | cons i ids ih => exact trans (h i s) (ih _)

end

/-- A property that an operation keeps is kept by its use on each of a list. -/
theorem forEach_keeps {P : State → Prop} {f : Nat → State → State} (h : ∀ i s, P s → P (f i s))
    (ids : List Nat) {s : State} (hs : P s) : P (forEach ids f s) := by
  unfold forEach
  induction ids generalizing s with
  | nil => exact hs
  | cons i ids ih => exact ih (h i s hs)

/-! ### A channel's record -/

section
variable (i : Nat) (f : Channel → Channel) (s : State)

/-- A record changes; nothing else does but what waits on the mirror list. -/
theorem updChan_frame : updChan i f s =
    { s with
      chan := { s.chan with chans := s.chan.chans.modify i f }
      report := { s.report with mirror := (updChan i f s).report.mirror } } := by
  unfold updChan refreshChan
  rcases refreshWord_cases (chanWordAddr i) (fun t => t.chanWord i) s
    (s.onChan fun u => { u with chans := u.chans.modify i f }) with ⟨-, h⟩ | ⟨-, h⟩ <;> rw [h] <;> rfl

@[simp] theorem updChan_chan :
    (updChan i f s).chan = { s.chan with chans := s.chan.chans.modify i f } := by rw [updChan_frame]
@[simp] theorem updChan_ramp : (updChan i f s).ramp = s.ramp := by rw [updChan_frame]
@[simp] theorem updChan_mode : (updChan i f s).mode = s.mode := by rw [updChan_frame]
@[simp] theorem updChan_web : (updChan i f s).web = s.web := by rw [updChan_frame]
@[simp] theorem updChan_speed : (updChan i f s).speed = s.speed := by rw [updChan_frame]
@[simp] theorem updChan_mem : (updChan i f s).mem = s.mem := by rw [updChan_frame]

theorem updChan_mirrorLaw (h : MirrorLaw s) : MirrorLaw (updChan i f s) :=
  refreshWord_mirrorLaw _ _ _ _ h

/-- The record of the channel takes the change, every other record is as before. -/
theorem updChan_getElem (j : Nat) :
    (updChan i f s).chan.chans[j]? = if i = j then (s.chan.chans[j]?).map f else s.chan.chans[j]? := by
  rw [updChan_chan, List.getElem?_modify]
  split <;> simp

/-- The same of the channels, for a change that keeps the table entry. -/
theorem updChan_chanAt (hf : ∀ c, (f c).cfg = c.cfg) (j : Nat) :
    (updChan i f s).chanAt j = if i = j then (s.chanAt j).map f else s.chanAt j := by
  unfold State.chanAt
  rw [updChan_getElem]
  split
  · cases s.chan.chans[j]? with
    | none => rfl
    | some c => simp only [Option.map_some, Option.filter, hf]; split <;> rfl
  · rfl

end

theorem map_modify_still (i : Nat) {f : Channel → Channel} (hf : ∀ c, (f c).still = c.still)
    (l : List Channel) : (l.modify i f).map Channel.still = l.map Channel.still := by
  refine List.ext_getElem? fun j => ?_
  simp only [List.getElem?_map, List.getElem?_modify]
  cases l[j]? with
  | none => rfl
  | some c => simp only [Option.map_some]; split <;> simp [hf]

/-! ### Aiming -/

/-- Only targets, pin-waiting flags, the queue with its stall, the DRYHOLD level and the lists and the lost
count of the report unit may differ. -/
structure AimFrame (s t : State) : Prop where
  frame : t = { s with chan := t.chan, ramp := t.ramp, mode := t.mode, report := t.report }
  chans : ChannelsKept s t
  ramp : t.ramp = { s.ramp with
    queue := t.ramp.queue, stallTimer := t.ramp.stallTimer, stallFlag := t.ramp.stallFlag }
  mode : ModeKept s t
  report : ReportKept s t
  latches : SameLatches s t
  mirror : MirrorLaw s → MirrorLaw t

/-- An aiming: with the stall flag clear, neither the flag, nor DRYHOLD, nor the log differs. -/
structure Aims (s t : State) : Prop extends AimFrame s t where
  calm : s.ramp.stallFlag = false → t.ramp.stallFlag = false ∧ t.mode = s.mode ∧ SameLog s t

theorem Queues.aims {s t : State} (h : Queues s t) : Aims s t where
  frame := by rw [h.frame]
  chans := by rw [ChannelsKept, h.chan]; exact ⟨rfl, rfl, rfl⟩
  ramp := h.ramp
  mode := h.mode
  report := h.report
  latches := h.latches
  mirror := h.mirror
  calm := h.calm

namespace Aims

theorem refl (s : State) : Aims s s := (Queues.refl s).aims

theorem trans {s t u : State} (h : Aims s t) (k : Aims t u) : Aims s u where
  frame := by rw [k.frame, h.frame]
  chans := ⟨k.chans.1.trans h.chans.1, k.chans.2.1.trans h.chans.2.1, k.chans.2.2.trans h.chans.2.2⟩
  ramp := by rw [k.ramp, h.ramp]
  mode := by show u.mode = _; rw [k.mode, h.mode]
  report := by show u.report = _; rw [k.report, h.report]
  latches := ⟨k.latches.1.trans h.latches.1, k.latches.2.1.trans h.latches.2.1,
    k.latches.2.2.trans h.latches.2.2⟩
  mirror l := k.mirror (h.mirror l)
  calm e := by
    obtain ⟨a, b, c, d⟩ := h.calm e
    obtain ⟨a', b', c', d'⟩ := k.calm a
    exact ⟨a', b'.trans b, c'.trans c, d'.trans d⟩

variable {s t : State} (h : Aims s t)
include h

theorem web : t.web = s.web := by rw [h.frame]
theorem speed : t.speed = s.speed := by rw [h.frame]
theorem mem : t.mem = s.mem := by rw [h.frame]
theorem modeIs : t.mode.mode = s.mode.mode := by rw [h.mode]
theorem gov (c : Channel) : t.gov c = s.gov c := by
  unfold State.gov State.governing; rw [h.web]
theorem targetOf (c : Channel) : t.targetOf c = s.targetOf c := by
  unfold State.targetOf State.bandOf; rw [h.modeIs, h.gov, h.speed]
theorem queues : t.queues = s.queues := by unfold State.queues; rw [h.modeIs]

theorem getElem (i : Nat) : (t.chan.chans[i]?).map Channel.still = (s.chan.chans[i]?).map Channel.still := by
  have := congrArg (·[i]?) h.chans.2.2
  simpa using this

/-- Every channel is the one it was, but for its target and its pin-waiting flag. -/
theorem chanAt (i : Nat) : (t.chanAt i).map Channel.still = (s.chanAt i).map Channel.still := by
  have := h.getElem i
  unfold State.chanAt
  revert this
  cases s.chan.chans[i]? with
  | none => cases t.chan.chans[i]? <;> simp
  | some c =>
    cases t.chan.chans[i]? with
    | none => simp
    | some d =>
      intro this
      have hs : d.still = c.still := Option.some.inj this
      have hc : d.cfg = c.cfg := by show d.still.cfg = c.still.cfg; rw [hs]
      simp only [Option.filter, hc]
      split <;> simp [hs]

theorem chanAt_isSome (i : Nat) : (t.chanAt i).isSome = (s.chanAt i).isSome := by
  simpa using congrArg Option.isSome (h.chanAt i)

end Aims

theorem updChan_aims (i : Nat) {f : Channel → Channel} (hf : ∀ c, (f c).still = c.still) (s : State) :
    Aims s (updChan i f s) := by
  refine ⟨⟨?_, ?_, ?_, ?_, ?_, ?_, updChan_mirrorLaw i f s⟩, fun e => ?_⟩ <;> rw [updChan_frame]
  · exact ⟨rfl, rfl, map_modify_still i hf _⟩
  · exact ⟨rfl, rfl, rfl⟩
  · exact ⟨e, rfl, rfl, rfl⟩

section
variable (i : Nat) (s : State)

theorem setTarget_aims : Aims s (setTarget i s) :=
  withChan_rel Aims.refl fun _ _ => by apply updChan_aims; intro c; rfl

theorem reaim_aims : Aims s (reaim i s) := by
  refine withChan_rel Aims.refl fun c _ => ?_
  split
  · exact .refl s
  · split
    · exact (removeEntry_queues i s).aims
    · split
      · exact (putEntry_queues i _ _ s).aims
      · split
        · exact (putEntry_queues i _ _ s).aims
        · exact .refl s

theorem retarget_aims : Aims s (retarget i s) := by
  refine withChan_rel Aims.refl fun c _ => ?_
  split
  · exact .refl s
  · exact (setTarget_aims i s).trans (reaim_aims i _)

theorem batchInPlace_queues (pin : Bool) : Queues s (batchInPlace pin i s) := by
  refine withChan_rel Queues.refl fun c _ => ?_
  split
  · exact .refl s
  · split
    · exact putEntry_queues i _ _ s
    · exact .refl s

theorem queueTarget_queues (pin : Bool) : Queues s (queueTarget pin i s) :=
  withChan_rel Queues.refl fun _ _ => putEntry_queues i _ _ s

theorem tickChannel_queues : Queues s (tickChannel i s) := by
  refine withChan_rel Queues.refl fun c _ => ?_
  split
  · exact .refl s
  · exact putEntry_queues i _ _ s

theorem catchUp_aims : Aims s (catchUp i s) := by
  refine withChan_rel Aims.refl fun c _ => ?_
  split
  · exact .refl s
  · simp only
    refine .trans ?_ (updChan_aims i (by intro c; rfl) _)
    split
    · exact (putEntry_queues i _ _ s).aims
    · exact .refl s

theorem reaimInPlace_queues : Queues s (reaimInPlace i s) := by
  refine withChan_rel Queues.refl fun c _ => ?_
  split
  · exact .refl s
  · split
    · exact removeEntry_queues i s
    · exact putEntry_queues i _ _ s

theorem aimAtWebChange_aims : Aims s (aimAtWebChange i s) := by
  refine withChan_rel Aims.refl fun c _ => ?_
  simp only
  split
  · exact (setTarget_aims i s).trans (updChan_aims i (by intro c; rfl) _)
  · split
    · exact setTarget_aims i s
    · split
      · exact setTarget_aims i s
      · exact (setTarget_aims i s).trans (reaim_aims i _)

end

/-- A batch changes the queue and no record. -/
theorem applyBatch_queues (pin : Bool) (ids : List Nat) (s : State) : Queues s (applyBatch pin ids s) :=
  (forEach_rel Queues.refl Queues.trans (fun i t => batchInPlace_queues i t pin) ids s).trans
    (forEach_rel Queues.refl Queues.trans (fun i t => queueTarget_queues i t pin) _ _)

/-- The held pins are dropped: no record changes but for its pin-waiting flag. -/
theorem dropHeldPins_aims (s : State) : Aims s (dropHeldPins s) := by
  refine ⟨⟨rfl, ⟨rfl, rfl, ?_⟩, rfl, rfl, rfl, ⟨rfl, rfl, rfl⟩, id⟩, fun e => ⟨e, rfl, rfl, rfl⟩⟩
  simp [dropHeldPins, Channel.still]

/-- A band change moves no channel. -/
theorem bandsChanged_aims (curves : List Nat) (s : State) : Aims s (bandsChanged curves s) :=
  forEach_rel Aims.refl Aims.trans retarget_aims _ s

theorem adoptionPin_queues (s : State) : Queues s (adoptionPin s) := applyBatch_queues true _ s

/-- A ramp tick changes no record. -/
theorem forEach_tickChannel_queues (ids : List Nat) (s : State) : Queues s (forEach ids tickChannel s) :=
  forEach_rel Queues.refl Queues.trans tickChannel_queues ids s

/-! ### Settling -/

section
variable (w : WebId) (f : Sequencer → Sequencer) (s : State)

/-- A web's record changes; nothing else does but what waits on the mirror list. -/
theorem updSeq_frame : updSeq w f s =
    { s with
      web := s.web.onSeq w f
      report := { s.report with mirror := (updSeq w f s).report.mirror } } := by
  unfold updSeq
  rcases refreshWord_cases (webWordAddr w) (fun t => t.webWord w) s
    (s.onWeb (WebUnit.onSeq w f)) with ⟨-, h⟩ | ⟨-, h⟩ <;> rw [h] <;> rfl

@[simp] theorem updSeq_web : (updSeq w f s).web = s.web.onSeq w f := by rw [updSeq_frame]

theorem updSeq_mirrorLaw (h : MirrorLaw s) : MirrorLaw (updSeq w f s) := refreshWord_mirrorLaw _ _ _ _ h

/-- The record of the web takes the change, the other web's is as before. -/
theorem updSeq_seq (v : WebId) : (updSeq w f s).seq v = if v = w then f (s.seq v) else s.seq v := by
  unfold State.seq
  rw [updSeq_web]
  cases v <;> cases w <;> rfl

end

/-- Only what an aiming changes, and the settled flags and release timers, may differ. -/
structure SettleFrame (s t : State) : Prop where
  frame : t = { s with chan := t.chan, ramp := t.ramp, web := t.web, mode := t.mode, report := t.report }
  chans : ChannelsKept s t
  webs : WebsKept s t
  ramp : t.ramp = { s.ramp with
    queue := t.ramp.queue, stallTimer := t.ramp.stallTimer, stallFlag := t.ramp.stallFlag }
  mode : ModeKept s t
  report : ReportKept s t
  latches : SameLatches s t
  mirror : MirrorLaw s → MirrorLaw t

/-- An aiming with a settling. -/
structure Settles (s t : State) : Prop extends SettleFrame s t where
  calm : s.ramp.stallFlag = false → t.ramp.stallFlag = false ∧ t.mode = s.mode ∧ SameLog s t

theorem Aims.settles {s t : State} (h : Aims s t) : Settles s t where
  frame := by rw [h.frame]
  chans := h.chans
  webs := by
    unfold WebsKept SeqIs State.seq
    rw [h.web]
    exact ⟨rfl, fun w => by cases w <;> rfl⟩
  ramp := h.ramp
  mode := h.mode
  report := h.report
  latches := h.latches
  mirror := h.mirror
  calm := h.calm

namespace Settles

theorem refl (s : State) : Settles s s := (Aims.refl s).settles

theorem trans {s t u : State} (h : Settles s t) (k : Settles t u) : Settles s u where
  frame := by rw [k.frame, h.frame]
  chans := ⟨k.chans.1.trans h.chans.1, k.chans.2.1.trans h.chans.2.1, k.chans.2.2.trans h.chans.2.2⟩
  webs := by
    obtain ⟨a, b⟩ := h.webs
    obtain ⟨a', b'⟩ := k.webs
    refine ⟨by show u.web = _; rw [a', a], fun w => ?_⟩
    show u.seq w = _
    rw [b' w, b w]
  ramp := by rw [k.ramp, h.ramp]
  mode := by show u.mode = _; rw [k.mode, h.mode]
  report := by show u.report = _; rw [k.report, h.report]
  latches := ⟨k.latches.1.trans h.latches.1, k.latches.2.1.trans h.latches.2.1,
    k.latches.2.2.trans h.latches.2.2⟩
  mirror l := k.mirror (h.mirror l)
  calm e := by
    obtain ⟨a, b, c, d⟩ := h.calm e
    obtain ⟨a', b', c', d'⟩ := k.calm a
    exact ⟨a', b'.trans b, c'.trans c, d'.trans d⟩

variable {s t : State} (h : Settles s t)
include h

theorem speed : t.speed = s.speed := by rw [h.frame]
theorem mem : t.mem = s.mem := by rw [h.frame]
theorem modeIs : t.mode.mode = s.mode.mode := by rw [h.mode]
theorem seqState (w : WebId) : (t.seq w).state = (s.seq w).state := by rw [h.webs.2 w]
theorem governing (o : Owner) : t.governing o = s.governing o := by
  have u : t.web.upper.state = s.web.upper.state := h.seqState .upper
  have l : t.web.lower.state = s.web.lower.state := h.seqState .lower
  unfold State.governing
  cases o <;> simp only [u, l]
theorem gov (c : Channel) : t.gov c = s.gov c := h.governing _
theorem targetOf (c : Channel) : t.targetOf c = s.targetOf c := by
  unfold State.targetOf State.bandOf; rw [h.modeIs, h.gov, h.speed]

end Settles

theorem testWeb_settles (w : WebId) (s : State) : Settles s (testWeb w s) := by
  unfold testWeb
  split
  · exact .refl s
  · refine ⟨⟨?_, ?_, ?_, ?_, ?_, ?_, ?_, updSeq_mirrorLaw _ _ s⟩, fun e => ?_⟩
    · rw [updSeq_frame]
    · rw [updSeq_frame]; exact ⟨rfl, rfl, rfl⟩
    · refine ⟨by rw [updSeq_web]; cases w <;> rfl, fun v => ?_⟩
      show (updSeq w _ s).seq v = _
      rw [updSeq_seq]
      split <;> rfl
    · rw [updSeq_frame]
    · rw [updSeq_frame]
    · rw [updSeq_frame]
    · rw [updSeq_frame]; exact ⟨rfl, rfl, rfl⟩
    · rw [updSeq_frame]; exact ⟨e, rfl, rfl, rfl⟩

/-- The settling test changes no channel and no queue. -/
theorem testWeb_frame (w : WebId) (s : State) : testWeb w s =
    { s with web := (testWeb w s).web, report := (testWeb w s).report } := by
  unfold testWeb
  split
  · rfl
  · rw [updSeq_frame]

theorem testSettled_frame (s : State) : testSettled s =
    { s with web := (testSettled s).web, report := (testSettled s).report } := by
  unfold testSettled
  rw [testWeb_frame .lower, testWeb_frame .upper]

theorem testSettled_settles (s : State) : Settles s (testSettled s) :=
  (testWeb_settles .upper s).trans (testWeb_settles .lower _)

theorem webSettled_congr {s t : State} (w : WebId) (hc : t.chan.chans = s.chan.chans)
    (hs : ∀ v, (t.seq v).state = (s.seq v).state) (hm : t.mode.mode = s.mode.mode) :
    t.webSettled w = s.webSettled w := by
  have u : t.web.upper.state = s.web.upper.state := hs .upper
  have l : t.web.lower.state = s.web.lower.state := hs .lower
  have g : t.gov = s.gov := by
    funext c
    unfold State.gov State.governing
    cases c.cfg.owner <;> simp only [u, l]
  have e : t.chanSettled = s.chanSettled := by
    funext c
    unfold State.chanSettled
    rw [hm]
  unfold State.webSettled State.counted
  rw [hs w, hc, g, e]

/-- The settled flag of the tested web is its condition. -/
theorem testWeb_settled (w : WebId) (s : State) :
    ((testWeb w s).seq w).settled = (testWeb w s).webSettled w := by
  have hw : (testWeb w s).webSettled w = s.webSettled w :=
    webSettled_congr w (by rw [testWeb_frame]) (testWeb_settles w s).seqState
      (testWeb_settles w s).modeIs
  rw [hw]
  unfold testWeb
  split
  · assumption
  · rw [updSeq_seq, if_pos rfl]; rfl

theorem testWeb_other (w v : WebId) (h : v ≠ w) (s : State) : (testWeb w s).seq v = s.seq v := by
  unfold testWeb
  split
  · rfl
  · rw [updSeq_seq, if_neg h]

/-- The settling test establishes the settled law. -/
theorem testSettled_law (s : State) : SettledLaw (testSettled s) := by
  unfold testSettled
  refine ⟨?_, testWeb_settled .lower _⟩
  show ((testWeb .lower (testWeb .upper s)).seq .upper).settled = _
  rw [testWeb_other .lower .upper (by decide), testWeb_settled .upper s]
  exact (webSettled_congr .upper (by rw [testWeb_frame]) (testWeb_settles .lower _).seqState
    (testWeb_settles .lower _).modeIs).symm

/-! ### Changes that reach the channels -/

theorem forEach_handChan_queues (ids : List Nat) (s : State) :
    Queues s (forEach ids (fun i t => handWord (chanWordAddr i) (t.chanWord i) t) s) :=
  forEach_rel Queues.refl Queues.trans (fun _ t => handWord_queues _ _ t) ids s

/-- A change of web states aims and settles. -/
theorem websChanged_settles (before s : State) : Settles s (websChanged before s) := by
  unfold websChanged
  exact ((forEach_handChan_queues _ s).aims.trans
    ((forEach_rel Aims.refl Aims.trans aimAtWebChange_aims _ _).trans
      (applyBatch_queues _ _ _).aims)).settles.trans (testSettled_settles _)

theorem websChanged_law (before s : State) : SettledLaw (websChanged before s) := by
  unfold websChanged
  exact testSettled_law _

theorem enforceEntry_settles (s : State) : Settles s (enforceEntry s) := by
  unfold enforceEntry
  exact ((dropHeldPins_aims s).trans ((forEach_rel Aims.refl Aims.trans setTarget_aims _ _).trans
    ((applyBatch_queues _ _ _).aims.trans
      (forEach_rel Aims.refl Aims.trans reaim_aims _ _)))).settles.trans (testSettled_settles _)

theorem frozenEntry_settles (s : State) : Settles s (frozenEntry s) := by
  unfold frozenEntry
  exact ((forEach_rel Aims.refl Aims.trans setTarget_aims _ s).trans
    (forEach_rel Aims.refl Aims.trans (fun i t => (removeEntry_queues i t).aims) _ _)).settles.trans
      (testSettled_settles _)

theorem safeEntry_settles (s : State) : Settles s (safeEntry s) := by
  unfold safeEntry
  extract_lets u t
  have h : Aims s u := forEach_rel Aims.refl Aims.trans setTarget_aims _ s
  have k : Aims u t := forEach_rel Aims.refl Aims.trans (fun i t => (removeEntry_queues i t).aims) _ u
  exact (h.trans (k.trans (applyBatch_queues _ _ t).aims)).settles.trans (testSettled_settles _)

theorem observeEntry_settles (s : State) : Settles s (observeEntry s) := by
  unfold observeEntry
  exact (((emptyQueue_queues s).aims.trans (dropHeldPins_aims _)).trans
    (forEach_rel Aims.refl Aims.trans setTarget_aims _ _)).settles.trans (testSettled_settles _)

theorem enforceEntry_law (s : State) : SettledLaw (enforceEntry s) := by
  unfold enforceEntry
  exact testSettled_law _
theorem frozenEntry_law (s : State) : SettledLaw (frozenEntry s) := by
  unfold frozenEntry
  exact testSettled_law _
theorem safeEntry_law (s : State) : SettledLaw (safeEntry s) := by
  unfold safeEntry
  extract_lets u t
  generalize applyBatch _ _ t = v
  exact testSettled_law v
theorem observeEntry_law (s : State) : SettledLaw (observeEntry s) := by
  unfold observeEntry
  exact testSettled_law _

end Sys2Proof.Machine
end

