-- ==== Sys2Proof/Laws/Memory.lean ====
section
/-! SUPPORT. The memory: reading after writing, and the canonical form kept. -/

namespace Sys2Proof.Machine

namespace Memory

theorem readAt_below {m : Memory} {a : Nat} (h : ∀ c ∈ m, a < c.1) : readAt m a = unlisted := by
  induction m with
  | nil => rfl
  | cons c m ih =>
    have hc := h c (by simp)
    simp only [readAt]
    rw [if_neg (by omega), ih fun d hd => h d (by simp [hd])]

theorem mem_writeAt {m : Memory} {a : Nat} {v : Word} {c : Nat × Word} (h : c ∈ writeAt m a v) :
    c ∈ m ∨ (c = (a, v) ∧ v ≠ unlisted) := by
  induction m with
  | nil => simp only [writeAt] at h; split at h <;> simp_all
  | cons d m ih =>
    simp only [writeAt] at h
    split at h <;> (try split at h) <;> (try split at h) <;> simp_all <;> grind

/-- A write keeps the canonical form. -/
theorem wf_writeAt {m : Memory} {a : Nat} (v : Word) (ha : a < 65536) (h : wf m) :
    wf (writeAt m a v) := by
  refine ⟨?_, fun c hc => ?_⟩
  · obtain ⟨h, -⟩ := h
    induction m with
    | nil => simp only [writeAt]; split <;> simp
    | cons c m ih =>
      obtain ⟨hc, hm⟩ := List.pairwise_cons.1 h
      simp only [writeAt]
      split
      · split
        · exact h
        · refine List.pairwise_cons.2 ⟨fun d hd => ?_, h⟩
          rcases List.mem_cons.1 hd with rfl | hd
          · assumption
          · exact Nat.lt_trans ‹_› (hc d hd)
      · split
        · split
          · exact hm
          · subst_vars; exact List.pairwise_cons.2 ⟨hc, hm⟩
        · refine List.pairwise_cons.2 ⟨fun d hd => ?_, ih hm⟩
          rcases mem_writeAt hd with hd | ⟨rfl, -⟩
          · exact hc d hd
          · show c.1 < a; omega
  · rcases mem_writeAt hc with hc | ⟨rfl, hv⟩
    · exact h.2 c hc
    · exact ⟨hv, ha⟩

/-- A word written reads back, and every other reads as before. -/
theorem readAt_writeAt {m : Memory} (a b : Nat) (v : Word) (h : wf m) :
    readAt (writeAt m a v) b = if b = a then v else readAt m b := by
  obtain ⟨h, -⟩ := h
  induction m with
  | nil =>
    simp only [writeAt]
    split <;> simp only [readAt] <;> grind
  | cons c m ih =>
    obtain ⟨hc, hm⟩ := List.pairwise_cons.1 h
    have hlow : ∀ x, x ≤ c.1 → readAt m x = unlisted := fun x hx =>
      readAt_below fun d hd => Nat.lt_of_le_of_lt hx (hc d hd)
    simp only [writeAt]
    split
    · split <;> simp only [readAt] <;> grind
    · split
      · split <;> simp only [readAt] <;> grind
      · simp only [readAt]
        rw [ih hm]
        grind

end Memory

theorem State.readMem_writeMem {s : State} (addr value a : Word) (h : s.mem.wf) :
    (s.writeMem addr value).readMem a = if a = addr then value else s.readMem a := by
  have hinj : a.toNat = addr.toNat ↔ a = addr := BitVec.toNat_inj
  simp only [State.readMem, State.writeMem, Memory.readAt_writeAt _ _ _ h, hinj]

theorem State.wf_writeMem {s : State} (addr value : Word) (h : s.mem.wf) :
    (s.writeMem addr value).mem.wf :=
  Memory.wf_writeAt value addr.isLt h

end Sys2Proof.Machine
end

