-- ==== Sys2Proof/Laws/Access.lean ====
section
/-! SUPPORT. What a host write does by its class (spec 01): each row that is a host write is `hostWrite`, and
one lemma for each class says what that is. -/

namespace Sys2Proof.Machine

/-- Every row that is a write of the host answers with the host's write of its word. -/
theorem exec_write {i : Instr} {addr v : Word} (h : i.write = some (addr, v)) (s : State) :
    exec i s = .next (hostWrite addr v s) := by
  cases i <;> simp only [Instr.write, Option.some.injEq, Prod.mk.injEq, reduceCtorEq] at h <;>
    obtain ⟨rfl, rfl⟩ := h <;> rfl

/-! ### The class of a write -/

section
variable {addr v : Word} {s : State}

theorem classify_held (h : s.pins.resetHeld = true) : classify addr v s = .perform .transparent := by
  simp [classify, h]

theorem areaOf_control (h : addr.toNat ≤ 0x003F) : areaOf addr = .control := by simp [areaOf, h]

/-- A write of a control word is performed, but for a command while BUSY and a read index above 63. -/
theorem classify_control (hr : s.pins.resetHeld = false) (ha : addr.toNat ≤ 0x003F)
    (h0 : addr = 0 → s.command.work = .none ∨ v = 9) (h9 : addr = 9 → v.toNat ≤ 63) :
    classify addr v s = .perform .control := by
  unfold classify
  rw [areaOf_control ha]
  have a : ¬(addr = 0 ∧ s.busy = true ∧ v ≠ 9#16) := by
    rintro ⟨e, b, n⟩
    rcases h0 e with w | w
    · simp [State.busy, w] at b
    · exact n w
  have b : ¬(addr = 9#16 ∧ 63 < v.toNat) := by
    rintro ⟨e, l⟩
    have := h9 e
    omega
  simp only [hr, Bool.false_eq_true, if_false, a, b]

/-- The writes that are blocked. -/
theorem classify_blocked (hr : s.pins.resetHeld = false)
    (h : (addr = 0 ∧ s.command.work ≠ .none ∧ v ≠ 9) ∨ (addr = 9 ∧ 63 < v.toNat) ∨
      (0x0040 ≤ addr.toNat ∧ addr.toNat ≤ 0x01FF) ∨
      (0x0200 ≤ addr.toNat ∧ addr.toNat ≤ 0x06FF ∧
        ¬(s.mode.mode = .unprofiled ∧ s.profile.adoption = .idle ∧ s.profile.lock = false))) :
    classify addr v s = .blocked := by
  unfold classify
  rcases h with ⟨rfl, hw, hv⟩ | ⟨rfl, hv⟩ | ⟨ha, hb⟩ | ⟨ha, hb, hc⟩
  · simp [hr, areaOf, State.busy, hw]
    exact hv
  · simp [hr, areaOf, hv]
  · have : areaOf addr = .status ∨ areaOf addr = .ring := by
      unfold areaOf
      by_cases h : addr.toNat ≤ 0x00FF
      · left; simp only; rw [if_neg (by omega), if_pos h]
      · right; simp only; rw [if_neg (by omega), if_neg h, if_pos hb]
    rcases this with h | h <;> simp [hr, h]
  · have : areaOf addr = .guard := by
      unfold areaOf
      simp only
      rw [if_neg (by omega), if_neg (by omega), if_neg (by omega), if_pos hb]
    simp only [hr, this, Bool.false_eq_true, if_false, hc]

/-- The writes of no control word that are performed as they are. -/
theorem classify_plain (hr : s.pins.resetHeld = false) (ha : 0x0200 ≤ addr.toNat)
    (hg : addr.toNat ≤ 0x06FF →
      s.mode.mode = .unprofiled ∧ s.profile.adoption = .idle ∧ s.profile.lock = false)
    (hc : s.channelAt addr = none) : classify addr v s = .perform .plain := by
  unfold classify
  have : areaOf addr = .guard ∧ addr.toNat ≤ 0x06FF ∨ areaOf addr = .general ∨ areaOf addr = .output ∨
      areaOf addr = .input := by
    unfold areaOf
    simp only
    grind
  rcases this with ⟨h, k⟩ | h | h | h
  · simp [hr, h, hg k]
  · simp [hr, h]
  · simp [hr, h, hc]
  · simp [hr, h]

/-- A write of an output word is ruled on when the word is a channel's. -/
theorem classify_rule (hr : s.pins.resetHeld = false) (ha : 0x1000 ≤ addr.toNat ∧ addr.toNat ≤ 0x7FFF)
    {i : Nat} (hc : s.channelAt addr = some i) : classify addr v s = .rule i := by
  unfold classify
  have : areaOf addr = .output := by
    unfold areaOf
    simp only
    grind
  simp [hr, this, hc]

end

/-! ### What a write does -/

section
variable {addr v : Word} {s : State}

/-- The host's bus is free: the write begins. -/
theorem hostWrite_begins (h : BusFree s) : hostWrite addr v s =
    match classify addr v s with
    | .blocked => blockWrite addr s
    | .perform cls => submit ⟨addr, false, v, cls⟩ s
    | .rule i =>
      match ruleHostWrite i v.toNat s with
      | (t, none) => t
      | (t, some x) => submit ⟨addr, false, wordOf x, .channel⟩ t := by
  obtain ⟨h, k⟩ := h
  unfold hostWrite hostAccess
  have : busHeld s = false := by simp [busHeld, h, k]
  simp only [this, Bool.false_eq_true, if_false, beginAccess]
  cases classify addr v s with
  | blocked => rfl
  | perform cls => rfl
  | rule i =>
    simp only
    rcases ruleHostWrite i v.toNat s with ⟨t, _ | x⟩ <;> rfl

/-- The host's bus is held: the write waits behind what holds it. -/
theorem hostWrite_held (h : s.path.host ≠ none) : hostWrite addr v s =
    s.onPath fun u => { u with held := u.held ++ [⟨addr, some v⟩] } := by
  have : busHeld s = true := by simp [busHeld, Option.isSome_iff_ne_none.mpr h]
  simp only [hostWrite, hostAccess, this, if_true]
  rfl

/-- An access that wins the free port, other than one of a channel word, completes at once. -/
theorem submit_completes {a : HostAccess} (ha : a.cls ≠ .channel) (hp : s.arbiter.port = none)
    (hw : guardOffer s = none ∨ s.arbiter.record = .guard) :
    submit a s = completeAccess a (s.onArbiter fun _ => ⟨.host, none⟩) := by
  have : hostWins s = true := by
    unfold hostWins
    rcases hw with hw | hw <;> simp [hw]
  unfold submit
  rw [hp, this]
  simp only [Option.isNone_none, Bool.and_self, if_true, ha, if_false]
  rfl

/-- An access that does not win the port waits. -/
theorem submit_waits {a : HostAccess}
    (h : s.arbiter.port ≠ none ∨ (guardOffer s ≠ none ∧ s.arbiter.record = .host)) :
    submit a s = s.onPath fun u => { u with host := some a } := by
  have : (s.arbiter.port.isNone && hostWins s) = false := by
    unfold hostWins
    rcases h with h | ⟨h, k⟩
    · simp [h]
    · simp [k]
      exact fun _ => Option.isSome_iff_ne_none.mpr h
  unfold submit
  rw [this]
  rfl

/-- A write of a channel word that wins the free port holds it. -/
theorem submit_holds {a : HostAccess} (ha : a.cls = .channel) (hr : a.isRead = false)
    (hp : s.arbiter.port = none) (hw : guardOffer s = none ∨ s.arbiter.record = .guard) :
    submit a s = { s with arbiter := ⟨.host, some .host⟩, path := { s.path with host := some a } } := by
  have : hostWins s = true := by
    unfold hostWins
    rcases hw with hw | hw <;> simp [hw]
  unfold submit
  rw [hp, this]
  simp only [Option.isNone_none, Bool.and_self, if_true, ha, grantHost, hr, Bool.false_eq_true, if_false]
  rfl

/-- While RESET is held, a write of any class is stored and hands nothing on. -/
theorem completeAccess_held {cls : AccessClass} (hr : s.pins.resetHeld = true) :
    completeAccess ⟨addr, false, v, cls⟩ s = s.writeMem addr v := by
  have : (s.writeMem addr v).pins.resetHeld = true := hr
  simp only [completeAccess, Bool.false_eq_true, if_false, this, if_true]

/-- A control write that completes is stored and handed to its unit. -/
theorem completeAccess_control (hr : s.pins.resetHeld = false) :
    completeAccess ⟨addr, false, v, .control⟩ s = handControl addr v (s.writeMem addr v) := by
  have : (s.writeMem addr v).pins.resetHeld = false := hr
  simp only [completeAccess, Bool.false_eq_true, if_false, this]

/-- A control write that is performed at once is stored and handed to its unit. -/
theorem hostWrite_control (h : HostFree s) (hr : s.pins.resetHeld = false) (ha : addr.toNat ≤ 0x003F)
    (h0 : addr = 0 → s.command.work = .none ∨ v = 9) (h9 : addr = 9 → v.toNat ≤ 63) :
    hostWrite addr v s =
      handControl addr v ((s.onArbiter fun _ => ⟨.host, none⟩).writeMem addr v) := by
  obtain ⟨a, b, c, d⟩ := h
  rw [hostWrite_begins ⟨a, b⟩, classify_control hr ha h0 h9]
  simp only
  rw [submit_completes (by simp) c d]
  exact completeAccess_control hr

/-- Under RESET a write is stored and handed to no unit. -/
theorem hostWrite_transparent (h : HostFree s) (hr : s.pins.resetHeld = true) :
    hostWrite addr v s = (s.onArbiter fun _ => ⟨.host, none⟩).writeMem addr v := by
  obtain ⟨a, b, c, d⟩ := h
  rw [hostWrite_begins ⟨a, b⟩, classify_held hr]
  simp only
  rw [submit_completes (by simp) c d]
  exact completeAccess_held hr

/-- A blocked write, whoever holds the port. -/
theorem hostWrite_blocked (h : BusFree s) (hb : classify addr v s = .blocked) :
    hostWrite addr v s = blockWrite addr s := by
  rw [hostWrite_begins h, hb]

end

/-! ### The frame of a blocked write -/

theorem updCommand_frame (f : CommandUnit → CommandUnit) (s : State) : updCommand f s =
    { s with
      command := f s.command
      report := { s.report with mirror := (updCommand f s).report.mirror } } := by
  unfold updCommand
  rcases refreshWord_cases 0x0044 State.modeWord s (s.onCommand f) with ⟨-, h⟩ | ⟨-, h⟩ <;> rw [h] <;> rfl

theorem updProfile_frame (f : ProfileUnit → ProfileUnit) (s : State) : updProfile f s =
    { s with
      profile := f s.profile
      report := { s.report with mirror := (updProfile f s).report.mirror } } := by
  unfold updProfile
  rcases refreshWord_cases 0x0044 State.modeWord s (s.onProfile f) with ⟨-, h⟩ | ⟨-, h⟩ <;> rw [h] <;> rfl

/-- The blocked count goes up by one, to 65,535 at most. -/
theorem countBlocked_frame (s : State) : countBlocked s =
    { s with
      path := { s.path with blocked := saturate (s.path.blocked + 1) }
      report := { s.report with mirror := (countBlocked s).report.mirror } } := by
  unfold countBlocked
  simp only
  split
  · rename_i h; rw [h]
  · rfl

/-- A count that changed waits on the mirror list; one that did not hands nothing on. -/
theorem countBlocked_waiting (s : State) : (countBlocked s).report.waiting 0x0052 =
    if saturate (s.path.blocked + 1) = s.path.blocked then s.report.waiting 0x0052
    else some (wordOf (saturate (s.path.blocked + 1))) := by
  unfold countBlocked
  simp only
  split
  · rfl
  · rw [handWord_waiting, if_pos rfl]

/-- The absorbed count goes up by one, to 65,535 at most. -/
theorem countAbsorbed_frame (s : State) : countAbsorbed s =
    { s with
      chan := { s.chan with absorbed := saturate (s.chan.absorbed + 1) }
      report := { s.report with mirror := (countAbsorbed s).report.mirror } } := by
  unfold countAbsorbed
  simp only
  split
  · rename_i h; rw [h]
  · rfl

/-- A blocked write is counted; one of the command word sets the overrun flag. -/
theorem blockWrite_frame (addr : Word) (s : State) : blockWrite addr s =
    { s with
      path := { s.path with blocked := saturate (s.path.blocked + 1) }
      command := { s.command with overrun := s.command.overrun || decide (addr = 0) }
      report := { s.report with mirror := (blockWrite addr s).report.mirror } } := by
  unfold blockWrite
  rw [countBlocked_frame]
  by_cases h : addr = 0
  · simp only [h, if_true, missCommand]
    rw [updCommand_frame]
    simp
  · simp only [h, if_false, decide_false, Bool.or_false]

end Sys2Proof.Machine
end

