-- ==== Sys2Proof/Laws/Guard.lean ====
section
/-! SUPPORT. The guard area in memory and the grant of a guard access: the lemmas that the law of the guard
area and the statements about the port rest on. -/

namespace Sys2Proof.Machine

/-! ### The words of the guard area -/

/-- The words of the guard area depend on the guard area alone. -/
theorem guardWords_congr {s t : State} {stop : Nat} (hs : stop ≤ 0x06F1)
    (h : ∀ a : Word, 0x0200 ≤ a.toNat → a.toNat ≤ 0x06F0 → t.readMem a = s.readMem a) :
    t.guardWords stop = s.guardWords stop := by
  unfold State.guardWords
  refine List.map_congr_left fun a ha => ?_
  have ha := List.mem_range'_1.mp (List.mem_filter.mp ha).1
  have hn : (wordOf a).toNat = a := by
    show a % 2 ^ 16 = a
    exact Nat.mod_eq_of_lt (by omega)
  exact h _ (by omega) (by omega)

/-- The read pass stages one word more (R147). -/
theorem guardWords_succ (s : State) (pos : Nat) (h : 0x0200 ≤ pos) :
    s.guardWords (pos + 1) = stageWord pos (s.readMem (wordOf pos)) (s.guardWords pos) := by
  unfold State.guardWords stageWord
  have : pos + 1 - 0x0200 = (pos - 0x0200) + 1 := by omega
  rw [this, List.range'_concat, List.filter_append, List.map_append]
  have hp : 0x0200 + 1 * (pos - 0x0200) = pos := by omega
  rw [hp]
  by_cases k : 0x0218 ≤ pos ∧ pos ≤ 0x021F
  · have : ¬(pos < 0x0218 ∨ 0x021F < pos) := by omega
    simp [k]
  · have : pos < 0x0218 ∨ 0x021F < pos := by omega
    simp [k, this]

/-- The read pass begins with no word. -/
@[simp] theorem guardWords_start (s : State) : s.guardWords 0x0200 = [] := rfl

/-! ### The grant of a guard access -/

/-- The grant of a guard access sets its marks and takes the port, and nothing else. -/
theorem grantGuard_granted (p : PortAccess) (s : State) :
    grantGuard p s = { s with
      arbiter := ⟨.guard, some p⟩, ramp := (grantGuard p s).ramp, report := (grantGuard p s).report } ∧
    GuardGranted p s (grantGuard p s) := by
  cases p <;> exact ⟨rfl, rfl, rfl⟩

end Sys2Proof.Machine
end

