-- ==== Sys2Proof/Laws/PerInstr.lean ====
section
/-! SUPPORT. A statement for every command as it is written: the word that a well-formed row writes lies where
the row's part of the memory map is. -/

namespace Sys2Proof.Laws.OperandRange

open Sys2Proof Sys2Proof.Machine

/-- What a row says of the word that it writes. -/
def Admits (addr value : Word) : Instr → Prop
  | .badCode _ => addr = 0x0000#16 ∧ 10 ≤ value.toNat
  | .enable _ | .run _ | .rearm _ | .disable _ | .webBadCode _ | .webCommandNoAction _ => addr = 0x0004#16
  | .eventReadIndexWrite _ => addr = 0x0009#16 ∧ value.toNat ≤ 63
  | .hostChannelWrite _ _ => areaOf addr = .output
  | .plainWrite _ _ => areaOf addr ≠ .control
  | .blockedWrite _ _ => addr.toNat ≤ 0x06FF
  | _ => areaOf addr = .control

/-- A well-formed row that writes a word writes one that the row admits. -/
def Statement (i : Instr) : Prop :=
  i.wellFormed = true → ∀ addr value, i.write = some (addr, value) → Admits addr value i

theorem adopt : Statement .adopt := fun _ _ _ e => by cases e; rfl
theorem discard : Statement .discard := fun _ _ _ e => by cases e; rfl
theorem setMode : Statement .setMode := fun _ _ _ e => by cases e; rfl
theorem recover : Statement .recover := fun _ _ _ e => by cases e; rfl
theorem lock : Statement .lock := fun _ _ _ e => by cases e; rfl
theorem clearDeltas : Statement .clearDeltas := fun _ _ _ e => by cases e; rfl
theorem clearNotes : Statement .clearNotes := fun _ _ _ e => by cases e; rfl
theorem selfTest : Statement .selfTest := fun _ _ _ e => by cases e; rfl
theorem restart : Statement .restart := fun _ _ _ e => by cases e; rfl
theorem badCode (code : Word) :
    Statement (.badCode code) := fun h _ _ e => by cases e; exact ⟨rfl, of_decide_eq_true h⟩
theorem enable (value : Word) : Statement (.enable value) := fun _ _ _ e => by cases e; rfl
theorem run (value : Word) : Statement (.run value) := fun _ _ _ e => by cases e; rfl
theorem rearm (value : Word) : Statement (.rearm value) := fun _ _ _ e => by cases e; rfl
theorem disable (value : Word) : Statement (.disable value) := fun _ _ _ e => by cases e; rfl
theorem webBadCode (value : Word) : Statement (.webBadCode value) := fun _ _ _ e => by cases e; rfl
theorem hostChannelWrite (addr : Word) (value : Word) :
    Statement (.hostChannelWrite addr value) := fun h _ _ e => by
  cases e
  simp only [Instr.wellFormed, Bool.and_eq_true, decide_eq_true_eq] at h
  simp only [Admits, areaOf]
  grind
theorem hostWriteCompletion : Statement .hostWriteCompletion := fun _ _ _ e => by cases e
theorem blockedWrite (addr : Word) (value : Word) : Statement (.blockedWrite addr value) := fun h _ _ e => by
  cases e
  simp only [Instr.wellFormed, mayBeBlocked] at h
  simp only [Admits]
  grind
theorem livenessWrite (value : Word) : Statement (.livenessWrite value) := fun _ _ _ e => by cases e; rfl
theorem attentionMaskWrite (value : Word) :
    Statement (.attentionMaskWrite value) := fun _ _ _ e => by cases e; rfl
theorem acknowledge (value : Word) : Statement (.acknowledge value) := fun _ _ _ e => by cases e; rfl
theorem eventReadIndexWrite (value : Word) :
    Statement (.eventReadIndexWrite value) := fun h _ _ e => by cases e; exact ⟨rfl, of_decide_eq_true h⟩
theorem controlWrite (addr : Word) (value : Word) : Statement (.controlWrite addr value) := fun h _ _ e => by
  cases e
  simp only [Instr.wellFormed, isOtherControlWrite] at h
  simp only [Admits, areaOf]
  grind
theorem plainWrite (addr : Word) (value : Word) : Statement (.plainWrite addr value) := fun h _ _ e => by
  cases e
  simp only [Instr.wellFormed, decide_eq_true_eq] at h
  simp only [Admits, areaOf]
  grind
theorem attentionSummaryRead : Statement .attentionSummaryRead := fun _ _ _ e => by cases e
theorem resetAssert : Statement .resetAssert := fun _ _ _ e => by cases e
theorem startUp : Statement .startUp := fun _ _ _ e => by cases e
theorem qualifierStart (line : InputLine) (asserted : Bool) :
    Statement (.qualifierStart line asserted) := fun _ _ _ e => by cases e
theorem breakQualifiedAssertion (web : WebId) :
    Statement (.breakQualifiedAssertion web) := fun _ _ _ e => by cases e
theorem breakQualifiedNegation (web : WebId) :
    Statement (.breakQualifiedNegation web) := fun _ _ _ e => by cases e
theorem spliceQualifiedAssertion (web : WebId) :
    Statement (.spliceQualifiedAssertion web) := fun _ _ _ e => by cases e
theorem spliceQualifiedNegation (web : WebId) :
    Statement (.spliceQualifiedNegation web) := fun _ _ _ e => by cases e
theorem estopQualifiedAssertion : Statement .estopQualifiedAssertion := fun _ _ _ e => by cases e
theorem estopQualifiedNegation : Statement .estopQualifiedNegation := fun _ _ _ e => by cases e
theorem spliceWindowExpiry (web : WebId) : Statement (.spliceWindowExpiry web) := fun _ _ _ e => by cases e
theorem tripReleased (web : WebId) : Statement (.tripReleased web) := fun _ _ _ e => by cases e
theorem tachPulse (source : Source) : Statement (.tachPulse source) := fun _ _ _ e => by cases e
theorem silence (source : Source) : Statement (.silence source) := fun _ _ _ e => by cases e
theorem gateEnd : Statement .gateEnd := fun _ _ _ e => by cases e
theorem rampTick : Statement .rampTick := fun _ _ _ e => by cases e
theorem gapAssert : Statement .gapAssert := fun _ _ _ e => by cases e
theorem gapNegate : Statement .gapNegate := fun _ _ _ e => by cases e
theorem portGrant (read : Option Word) : Statement (.portGrant read) := fun _ _ _ e => by cases e
theorem imposedWriteCompletion : Statement .imposedWriteCompletion := fun _ _ _ e => by cases e
theorem scanStall : Statement .scanStall := fun _ _ _ e => by cases e
theorem ringWriteCompletion : Statement .ringWriteCompletion := fun _ _ _ e => by cases e
theorem mirrorWriteCompletion : Statement .mirrorWriteCompletion := fun _ _ _ e => by cases e
theorem adoptionReadCompletion : Statement .adoptionReadCompletion := fun _ _ _ e => by cases e
theorem captureReadCompletion : Statement .captureReadCompletion := fun _ _ _ e => by cases e
theorem livenessExpired : Statement .livenessExpired := fun _ _ _ e => by cases e
theorem selfTestDone (failed : StoreFlags) : Statement (.selfTestDone failed) := fun _ _ _ e => by cases e
theorem timestampTick : Statement .timestampTick := fun _ _ _ e => by cases e
theorem webCommandNoAction (value : Word) :
    Statement (.webCommandNoAction value) := fun _ _ _ e => by cases e; rfl

end Sys2Proof.Laws.OperandRange
end

