-- ==== Sys2Proof/Laws/Shown.lean ====
section
/-! SUPPORT. What is shown of the channels and the queue (R49, R81): every operation that changes a channel's
state word or the depth hands it on, and no other hand-on overtakes it. -/

namespace Sys2Proof.Machine

/-! ### The words that show the channels and the queue -/

/-- The address of a channel state word or of the depth word. -/
abbrev ShownAddr (a : Word) : Prop := a = 0x0054 ∨ 0x0080 ≤ a.toNat ∧ a.toNat ≤ 0x00DF

theorem chanWordAddr_toNat {i : Nat} (h : i < 96) : (chanWordAddr i).toNat = 0x0080 + i := by
  unfold chanWordAddr wordOf
  rw [BitVec.toNat_ofNat]
  omega

theorem chanWordAddr_shown {i : Nat} (h : i < 96) : ShownAddr (chanWordAddr i) := by
  have := chanWordAddr_toNat h
  exact .inr (by omega)

theorem chanWordAddr_inj {i j : Nat} (hi : i < 96) (hj : j < 96) (h : chanWordAddr i = chanWordAddr j) :
    i = j := by
  have := chanWordAddr_toNat hi
  have := chanWordAddr_toNat hj
  rw [h] at *
  omega

theorem chanWordAddr_ne_depth {i : Nat} (h : i < 96) : chanWordAddr i ≠ 0x0054 := by
  intro e
  have := chanWordAddr_toNat h
  rw [e] at this
  change 84 = _ at this
  omega

/-- A channel's state word depends on its record, its governing state and its pending flag. -/
theorem chanWord_congr {s t : State} {i : Nat} (hc : t.chan.chans[i]? = s.chan.chans[i]?)
    (hu : t.web.upper.state = s.web.upper.state) (hl : t.web.lower.state = s.web.lower.state)
    (hq : (pendingOf i t.ramp.queue).isSome = (pendingOf i s.ramp.queue).isSome) :
    t.chanWord i = s.chanWord i := by
  have hg : t.governing = s.governing := by
    funext o
    cases o <;> simp only [State.governing, hu, hl]
  unfold State.chanWord
  rw [hc, hg, hq]

theorem chanWord_beyond {s : State} {i : Nat} (h : s.chan.chans.length ≤ i) : s.chanWord i = 0 := by
  unfold State.chanWord
  rw [List.getElem?_eq_none h]

/-! ### Showing -/

/-- A word shows what it showed and waits as it did, or its new value waits. -/
abbrev Carries (addr : Word) (old new : Nat → Word) (i : Nat) (s t : State) : Prop :=
  (new i = old i ∧ t.report.waiting addr = s.report.waiting addr) ∨ Hands addr (new i) t

/-- Every channel state word and the depth are carried, the table having at most 96 entries. -/
structure ShowsFrom (s t : State) : Prop where
  length : t.chan.chans.length = s.chan.chans.length
  chan : ∀ i < 96, Carries (chanWordAddr i) s.chanWord t.chanWord i s t
  depth : (t.ramp.queue.length = s.ramp.queue.length ∧
    t.report.waiting 0x0054 = s.report.waiting 0x0054) ∨ Hands 0x0054 t.depthWord t

/-- What `Shown` says, in the form that one operation after another keeps. -/
def Shows (s t : State) : Prop := s.chan.chans.length ≤ 96 → ShowsFrom s t

namespace Shows

theorem shown {s t : State} (h : Shows s t) : Shown s t := fun l =>
  ⟨fun i hi ne => ((h l).chan i hi).resolve_left fun e => ne e.1,
    fun ne => (h l).depth.resolve_left fun e => ne e.1⟩

theorem refl (s : State) : Shows s s := fun _ => ⟨rfl, fun _ _ => .inl ⟨rfl, rfl⟩, .inl ⟨rfl, rfl⟩⟩

theorem trans {s t u : State} (h : Shows s t) (k : Shows t u) : Shows s u := by
  intro l
  have h := h l
  have k := k (h.length ▸ l)
  refine ⟨k.length.trans h.length, fun i hi => ?_, ?_⟩
  · rcases k.chan i hi with ⟨e, w⟩ | e
    · rcases h.chan i hi with ⟨e', w'⟩ | e'
      · exact .inl ⟨e.trans e', w.trans w'⟩
      · exact .inr (by rw [Hands, w, e]; exact e')
    · exact .inr e
  · rcases k.depth with ⟨e, w⟩ | e
    · rcases h.depth with ⟨e', w'⟩ | e'
      · exact .inl ⟨e.trans e', w.trans w'⟩
      · exact .inr (by rw [Hands, w, State.depthWord, e]; exact e')
    · exact .inr e

/-- Nothing that is shown changes, and nothing shown is handed on. -/
theorem still {s t : State} (hl : t.chan.chans.length = s.chan.chans.length)
    (hw : ∀ i, t.chanWord i = s.chanWord i) (hq : t.ramp.queue.length = s.ramp.queue.length)
    (hr : ∀ a, ShownAddr a → t.report.waiting a = s.report.waiting a) : Shows s t := fun _ =>
  ⟨hl, fun i hi => .inl ⟨hw i, hr _ (chanWordAddr_shown hi)⟩, .inl ⟨hq, hr _ (.inl rfl)⟩⟩

end Shows

/-- Handing on a word of another address shows nothing of the channels and the queue. -/
theorem handWord_shows {a : Word} (h : ¬ShownAddr a) (v : Word) (s : State) : Shows s (handWord a v s) :=
  .still rfl (fun _ => rfl) rfl fun b hb => by
    rw [handWord_waiting, if_neg]
    rintro rfl
    exact h hb

theorem refreshWord_shows {a : Word} (h : ¬ShownAddr a) (view : State → Word) (before s : State) :
    Shows s (refreshWord a view before s) := by
  rcases refreshWord_cases a view before s with ⟨-, e⟩ | ⟨-, e⟩ <;> rw [e]
  · exact .refl s
  · exact handWord_shows h _ s

theorem appendEvent_shows (head : Word) (details : List (Word × Word)) (s : State) :
    Shows s (appendEvent head details s) := by
  have hf := (appendEvent_reports head details s).frame
  refine .still ?_ (fun i => chanWord_congr ?_ ?_ ?_ ?_) ?_ fun a ha => appendEvent_waiting _ _ _ _ ?_
  all_goals try rw [hf]
  rintro rfl
  revert ha
  decide

theorem recordEvent_shows (k : EventKind) (web a b : Nat) (s : State) :
    Shows s (recordEvent k web a b s) := appendEvent_shows _ _ s

theorem setLatches_shows (l f : BitVec 8) (s : State) : Shows s (setLatches l f s) :=
  .still rfl (fun _ => rfl) rfl fun a ha => by
    show ((mirrorPut 0x004F _ s.report.mirror).find? _).map _ = _
    rw [find_mirrorPut, if_neg]
    · rfl
    · rintro rfl
      revert ha
      decide

theorem latchCause_shows (c : Cause) (s : State) : Shows s (latchCause c s) := setLatches_shows _ _ s

theorem updMode_shows (f : ModeUnit → ModeUnit) (s : State) : Shows s (updMode f s) :=
  Shows.trans (t := s.onMode f) (.still rfl (fun _ => rfl) rfl fun _ _ => rfl)
    (Shows.trans (refreshWord_shows (a := 0x0044) (by decide) _ s _)
      (refreshWord_shows (a := 0x0045) (by decide) _ s _))

theorem deriveDryhold_shows (s : State) : Shows s (deriveDryhold s) := updMode_shows _ s

/-- The depth is handed on. -/
theorem handDepth_shows (s : State) : Shows s (handDepth s) := fun _ =>
  ⟨rfl, fun i hi => .inl ⟨rfl, by
    rw [handDepth, handWord_waiting, if_neg (chanWordAddr_ne_depth hi)]⟩,
    .inr (by rw [Hands, handDepth, handWord_waiting, if_pos rfl]; rfl)⟩

/-- A channel's state word is handed on as it stands. -/
theorem handChan_shows (i : Nat) (s : State) (h : i < s.chan.chans.length) :
    Shows s (handWord (chanWordAddr i) (s.chanWord i) s) := by
  intro l
  have hi : i < 96 := by omega
  refine ⟨rfl, fun j hj => ?_, .inl ⟨rfl, ?_⟩⟩
  · by_cases e : j = i
    · subst e
      exact .inr (by rw [Hands, handWord_waiting, if_pos rfl]; rfl)
    · refine .inl ⟨rfl, ?_⟩
      rw [handWord_waiting, if_neg fun k => e (chanWordAddr_inj hj hi k)]
  · rw [handWord_waiting, if_neg fun k => chanWordAddr_ne_depth hi k.symm]

/-- A change that reaches one channel's state word alone, and then its refresh. -/
theorem refreshChan_shows {i : Nat} {s t : State} (hl : t.chan.chans.length = s.chan.chans.length)
    (hw : ∀ j, j ≠ i → t.chanWord j = s.chanWord j) (hq : t.ramp.queue.length = s.ramp.queue.length)
    (hr : ∀ a, ShownAddr a → t.report.waiting a = s.report.waiting a) :
    Shows s (refreshChan i s t) := by
  unfold refreshChan
  rcases refreshWord_cases (chanWordAddr i) (fun t => t.chanWord i) s t with ⟨h, e⟩ | ⟨h, e⟩ <;> rw [e]
  · refine .still hl (fun j => ?_) hq hr
    by_cases k : j = i
    · subst k; exact h.symm
    · exact hw j k
  · intro l
    have hi : i < t.chan.chans.length := Nat.lt_of_not_le fun k =>
      h (by rw [chanWord_beyond (by omega), chanWord_beyond k])
    have c := handChan_shows i t hi (hl ▸ l)
    refine ⟨hl, fun j hj => ?_, ?_⟩
    · by_cases k : j = i
      · subst k
        exact .inr (by rw [Hands, handWord_waiting, if_pos rfl]; rfl)
      · rcases c.chan j hj with ⟨e', w⟩ | e'
        · exact .inl ⟨e'.trans (hw j k), w.trans (hr _ (chanWordAddr_shown hj))⟩
        · exact .inr e'
    · rcases c.depth with ⟨e', w⟩ | e'
      · exact .inl ⟨e'.trans hq, w.trans (hr _ (.inl rfl))⟩
      · exact .inr e'

/-- The same where the depth may change too, and is then handed on. -/
theorem refreshChan_handDepth_shows {i : Nat} {s t : State}
    (hl : t.chan.chans.length = s.chan.chans.length) (hw : ∀ j, j ≠ i → t.chanWord j = s.chanWord j)
    (hr : ∀ a, ShownAddr a → t.report.waiting a = s.report.waiting a) :
    Shows s (handDepth (refreshChan i s t)) := by
  intro l
  rcases refreshWord_cases (chanWordAddr i) (fun t => t.chanWord i) s t with ⟨h, e⟩ | ⟨h, e⟩ <;>
    rw [refreshChan, e]
  · refine ⟨hl, fun j hj => .inl ⟨?_, ?_⟩, .inr ?_⟩
    · by_cases k : j = i
      · subst k; exact h.symm
      · exact hw j k
    · rw [handDepth, handWord_waiting, if_neg (chanWordAddr_ne_depth hj), hr _ (chanWordAddr_shown hj)]
    · rw [Hands, handDepth, handWord_waiting, if_pos rfl]; rfl
  · have hi : i < 96 := Nat.lt_of_not_le fun k =>
      h (by rw [chanWord_beyond (by omega), chanWord_beyond (by omega)])
    refine ⟨hl, fun j hj => ?_, .inr ?_⟩
    · by_cases k : j = i
      · subst k
        refine .inr ?_
        rw [Hands, handDepth, handWord_waiting, if_neg (chanWordAddr_ne_depth hj), handWord_waiting,
          if_pos rfl]
        rfl
      · refine .inl ⟨hw j k, ?_⟩
        rw [handDepth, handWord_waiting, if_neg (chanWordAddr_ne_depth hj), handWord_waiting,
          if_neg fun x => k (chanWordAddr_inj hj hi x), hr _ (chanWordAddr_shown hj)]
    · rw [Hands, handDepth, handWord_waiting, if_pos rfl]; rfl

/-! ### The queue's operations -/

section
variable (i value : Nat) (pin : Bool) (s : State)

theorem joinQueue_shows : Shows s (joinQueue i value pin s) := by
  refine refreshChan_handDepth_shows rfl (fun j hj => chanWord_congr rfl rfl rfl ?_) fun _ _ => rfl
  show (pendingOf j (s.ramp.queue ++ _)).isSome = _
  unfold pendingOf
  have : i ≠ j := fun e => hj e.symm
  simp [List.find?_append, this]

theorem leaveQueue_shows : Shows s (leaveQueue i s) := by
  refine refreshChan_handDepth_shows rfl (fun j hj => chanWord_congr rfl rfl rfl ?_) fun _ _ => rfl
  show (pendingOf j (dropEntry i s.ramp.queue)).isSome = _
  rw [pendingOf_dropEntry, if_neg hj]

theorem setStallFlag_shows (b : Bool) : Shows s (setStallFlag b s) :=
  Shows.trans (t := s.onRamp fun u => { u with stallFlag := b })
    (.still rfl (fun _ => rfl) rfl fun _ _ => rfl) (refreshWord_shows (a := 0x0055) (by decide) _ s _)

theorem queueEmptied_shows (detail : Nat) : Shows s (queueEmptied detail s) := by
  have h : Shows s (s.onRamp fun u => { u with stallTimer := none }) :=
    .still rfl (fun _ => rfl) rfl fun _ _ => rfl
  unfold queueEmptied
  simp only
  split
  · exact Shows.trans h (Shows.trans (setStallFlag_shows _ false)
      (Shows.trans (recordEvent_shows _ _ _ _ _) (deriveDryhold_shows _)))
  · exact h

theorem ifEmptied_shows (detail : Nat) : Shows s (ifEmptied detail s) := by
  unfold ifEmptied
  split
  · exact queueEmptied_shows s detail
  · exact .refl s

theorem removeEntry_shows : Shows s (removeEntry i s) := by
  unfold removeEntry
  split
  · exact .refl s
  · split
    · exact .refl s
    · exact Shows.trans (leaveQueue_shows i s) (ifEmptied_shows _ 1)

theorem putEntry_shows : Shows s (putEntry i value pin s) := by
  unfold putEntry
  split
  · exact joinQueue_shows i value pin s
  · split
    · exact .refl s
    · refine .still rfl (fun j => chanWord_congr rfl rfl rfl ?_) (by simp [replaceEntry]) fun _ _ => rfl
      show (pendingOf j (replaceEntry i value pin s.ramp.queue)).isSome = _
      rw [pendingOf_replaceEntry, Option.isSome_map]

end

/-- Refreshing the channels of a list: each of them whose word differs waits with its new word, or did so
before; and what waits for a word that does not differ is as before. -/
theorem foldl_refreshChan_waiting {s t : State} (h : s.chan.chans.length ≤ 96)
    (hl : t.chan.chans.length = s.chan.chans.length) (l : List QueueEntry) :
    let u := l.foldl (fun t e => refreshChan e.channel s t) t
    u = { t with report := u.report } ∧
      ∀ i < 96,
        (t.chanWord i ≠ s.chanWord i →
          (Hands (chanWordAddr i) (t.chanWord i) t ∨ ∃ e ∈ l, e.channel = i) →
            Hands (chanWordAddr i) (t.chanWord i) u) ∧
        (t.chanWord i = s.chanWord i →
          u.report.waiting (chanWordAddr i) = t.report.waiting (chanWordAddr i)) := by
  induction l generalizing t with
  | nil => exact ⟨rfl, fun i hi => ⟨fun _ d => d.resolve_right (by simp), fun _ => rfl⟩⟩
  | cons e l ih =>
    rw [List.foldl_cons]
    rcases refreshWord_cases (chanWordAddr e.channel) (fun t => t.chanWord e.channel) s t with
      ⟨w, k⟩ | ⟨w, k⟩ <;> rw [refreshChan, k]
    · obtain ⟨a, b⟩ := ih hl
      refine ⟨a, fun i hi => ⟨fun ne d => (b i hi).1 ne (d.imp_right fun ⟨d, hd, x⟩ => ⟨d, ?_, x⟩),
        (b i hi).2⟩⟩
      rcases List.mem_cons.mp hd with rfl | hd
      · subst x; exact absurd w.symm ne
      · exact hd
    · have hi' : e.channel < 96 := Nat.lt_of_not_le fun k =>
        w (by rw [chanWord_beyond (by omega), chanWord_beyond (by omega)])
      obtain ⟨a, b⟩ := ih (t := handWord (chanWordAddr e.channel) (t.chanWord e.channel) t) hl
      refine ⟨a, fun i hi => ⟨fun ne d => (b i hi).1 ne ?_, fun eq => ?_⟩⟩
      · by_cases x : i = e.channel
        · subst x
          exact .inl (by rw [Hands, handWord_waiting, if_pos rfl]; rfl)
        · rcases d with d | ⟨d, hd, y⟩
          · refine .inl ?_
            rw [Hands, handWord_waiting, if_neg fun k => x (chanWordAddr_inj hi hi' k)]
            exact d
          · rcases List.mem_cons.mp hd with rfl | hd
            · exact absurd y.symm x
            · exact .inr ⟨d, hd, y⟩
      · rw [(b i hi).2 eq, handWord_waiting, if_neg fun k => ?_]
        have := chanWordAddr_inj hi hi' k
        subst this
        exact w eq.symm

theorem emptyQueue_shows (s : State) : Shows s (emptyQueue s) := by
  unfold emptyQueue
  split
  · exact .refl s
  · refine Shows.trans ?_ (queueEmptied_shows _ 1)
    intro l
    let t := s.onRamp fun u => { u with queue := [] }
    obtain ⟨a, b⟩ := foldl_refreshChan_waiting (t := t) l rfl s.ramp.queue
    let u := s.ramp.queue.foldl (fun t e => refreshChan e.channel s t) t
    show ShowsFrom s (handDepth u)
    have hc : u.chan = s.chan := (congrArg State.chan a).trans rfl
    have hw : ∀ i, u.chanWord i = t.chanWord i := fun i =>
      (congrArg (State.chanWord · i) a).trans rfl
    refine ⟨congrArg (fun c => c.chans.length) hc, fun i hi => ?_, .inr ?_⟩
    · by_cases e : t.chanWord i = s.chanWord i
      · refine .inl ⟨(hw i).trans e, ?_⟩
        rw [handDepth, handWord_waiting, if_neg (chanWordAddr_ne_depth hi)]
        exact (b i hi).2 e
      · refine .inr ?_
        rw [Hands, handDepth, handWord_waiting, if_neg (chanWordAddr_ne_depth hi)]
        show _ = some (u.chanWord i)
        rw [hw i]
        refine (b i hi).1 e (.inr ?_)
        cases k : pendingOf i s.ramp.queue with
        | none => exact absurd (chanWord_congr (s := s) (t := t) rfl rfl rfl (by rw [k]; rfl)) e
        | some d => exact ⟨d, List.mem_of_find?_eq_some k, pendingOf_channel k⟩
    · rw [Hands, handDepth, handWord_waiting, if_pos rfl]; rfl

/-! ### The channels -/

/-- A change of one record, and then its refresh. -/
theorem updChan_shows (i : Nat) (f : Channel → Channel) (s : State) : Shows s (updChan i f s) := by
  refine refreshChan_shows (by simp [State.onChan]) (fun j hj => chanWord_congr ?_ rfl rfl rfl) rfl
    fun _ _ => rfl
  have : i ≠ j := fun e => hj e.symm
  simp [State.onChan, this]

section
variable (i : Nat) (s : State)

theorem setTarget_shows : Shows s (setTarget i s) :=
  withChan_rel Shows.refl fun _ _ => updChan_shows _ _ _

theorem reaim_shows : Shows s (reaim i s) := by
  refine withChan_rel Shows.refl fun c _ => ?_
  split
  · exact .refl s
  · split
    · exact removeEntry_shows i s
    · split
      · exact putEntry_shows i _ _ s
      · split
        · exact putEntry_shows i _ _ s
        · exact .refl s

theorem retarget_shows : Shows s (retarget i s) := by
  refine withChan_rel Shows.refl fun c _ => ?_
  split
  · exact .refl s
  · exact Shows.trans (setTarget_shows i s) (reaim_shows i _)

theorem batchInPlace_shows (pin : Bool) : Shows s (batchInPlace pin i s) := by
  refine withChan_rel Shows.refl fun c _ => ?_
  split
  · exact .refl s
  · split
    · exact putEntry_shows i _ _ s
    · exact .refl s

theorem queueTarget_shows (pin : Bool) : Shows s (queueTarget pin i s) :=
  withChan_rel Shows.refl fun _ _ => putEntry_shows i _ _ s

theorem tickChannel_shows : Shows s (tickChannel i s) := by
  refine withChan_rel Shows.refl fun c _ => ?_
  split
  · exact .refl s
  · exact putEntry_shows i _ _ s

theorem catchUp_shows : Shows s (catchUp i s) := by
  refine withChan_rel Shows.refl fun c _ => ?_
  split
  · exact .refl s
  · simp only
    refine Shows.trans ?_ (updChan_shows i _ _)
    split
    · exact putEntry_shows i _ _ s
    · exact .refl s

theorem reaimInPlace_shows : Shows s (reaimInPlace i s) := by
  refine withChan_rel Shows.refl fun c _ => ?_
  split
  · exact .refl s
  · split
    · exact removeEntry_shows i s
    · exact putEntry_shows i _ _ s

theorem aimAtWebChange_shows : Shows s (aimAtWebChange i s) := by
  refine withChan_rel Shows.refl fun c _ => ?_
  simp only
  split
  · exact Shows.trans (setTarget_shows i s) (updChan_shows i _ _)
  · split
    · exact setTarget_shows i s
    · split
      · exact setTarget_shows i s
      · exact Shows.trans (setTarget_shows i s) (reaim_shows i _)

end

/-- An operation that shows what it does shows it when done to each of a list. -/
theorem forEach_shows {f : Nat → State → State} (h : ∀ i s, Shows s (f i s)) (ids : List Nat) (s : State) :
    Shows s (forEach ids f s) := forEach_rel Shows.refl Shows.trans h ids s

theorem applyBatch_shows (pin : Bool) (ids : List Nat) (s : State) : Shows s (applyBatch pin ids s) :=
  Shows.trans (forEach_shows (fun i t => batchInPlace_shows i t pin) ids s)
    (forEach_shows (fun i t => queueTarget_shows i t pin) _ _)

theorem dropHeldPins_shows (s : State) : Shows s (dropHeldPins s) := by
  refine .still (by simp [dropHeldPins, State.onChan]) (fun i => ?_) rfl fun _ _ => rfl
  unfold State.chanWord dropHeldPins State.onChan
  simp only [List.getElem?_map]
  cases s.chan.chans[i]? <;> rfl

theorem bandsChanged_shows (curves : List Nat) (s : State) : Shows s (bandsChanged curves s) :=
  forEach_shows retarget_shows _ s

/-! ### Settling, and the changes that reach the channels -/

theorem testWeb_shows (w : WebId) (s : State) : Shows s (testWeb w s) := by
  unfold testWeb
  split
  · exact .refl s
  · unfold updSeq
    refine Shows.trans (t := s.onWeb _)
      (.still rfl (fun i => chanWord_congr rfl ?_ ?_ rfl) rfl fun _ _ => rfl)
      (refreshWord_shows (by cases w <;> decide) _ s _) <;> cases w <;> rfl

theorem testSettled_shows (s : State) : Shows s (testSettled s) :=
  Shows.trans (testWeb_shows .upper s) (testWeb_shows .lower _)

/-- Handing on the channels of a list: each waits with its word, and what waits for any other is as before. -/
theorem forEach_handChan_waiting {s : State} (l : s.chan.chans.length ≤ 96) (ids : List Nat)
    (h : ∀ i ∈ ids, i < s.chan.chans.length) :
    let u := forEach ids (fun i t => handWord (chanWordAddr i) (t.chanWord i) t) s
    u = { s with report := u.report } ∧
      (∀ i < 96, (i ∈ ids ∨ Hands (chanWordAddr i) (s.chanWord i) s →
        Hands (chanWordAddr i) (s.chanWord i) u) ∧
          (i ∉ ids → u.report.waiting (chanWordAddr i) = s.report.waiting (chanWordAddr i))) ∧
      u.report.waiting 0x0054 = s.report.waiting 0x0054 := by
  unfold forEach
  induction ids generalizing s with
  | nil => exact ⟨rfl, fun i _ => ⟨fun d => d.resolve_left (by simp), fun _ => rfl⟩, rfl⟩
  | cons j ids ih =>
    have hj : j < 96 := by have := h j (by simp); omega
    obtain ⟨a, b, c⟩ := ih (s := handWord (chanWordAddr j) (s.chanWord j) s) l
      fun i hi => h i (List.mem_cons_of_mem j hi)
    refine ⟨a, fun i hi => ⟨fun d => (b i hi).1 ?_, fun d => ?_⟩, ?_⟩
    · by_cases x : i = j
      · subst x
        exact .inr (by rw [Hands, handWord_waiting, if_pos rfl]; rfl)
      · refine d.imp (fun m => (List.mem_cons.mp m).resolve_left x) fun k => ?_
        rw [Hands, handWord_waiting, if_neg fun k => x (chanWordAddr_inj hi hj k)]
        exact k
    · simp only [List.mem_cons, not_or] at d
      rw [List.foldl_cons, (b i hi).2 d.2, handWord_waiting,
        if_neg fun k => d.1 (chanWordAddr_inj hi hj k)]
    · rw [List.foldl_cons, c, handWord_waiting, if_neg fun k => chanWordAddr_ne_depth hj k.symm]

/-- A change of webs that reaches the channels is shown, the governing states with the aims. -/
theorem websChanged_shows {before s : State} (hc : s.chan = before.chan)
    (hq : s.ramp.queue = before.ramp.queue)
    (hr : ∀ a, ShownAddr a → s.report.waiting a = before.report.waiting a) :
    Shows before (websChanged before s) := by
  unfold websChanged
  extract_lets ids u v
  refine Shows.trans (t := u) (fun l => ?_) (Shows.trans (forEach_shows aimAtWebChange_shows _ u)
    (Shows.trans (applyBatch_shows _ _ v) (testSettled_shows _)))
  have hids : ∀ i, i ∈ ids ↔ ∃ c, s.chanAt i = some c ∧ before.gov c ≠ s.gov c := by
    intro i
    simp only [ids, State.select, State.channels, List.mem_filter, List.mem_range]
    cases k : s.chanAt i with
    | none => simp
    | some c =>
      have : i < s.chan.chans.length := by
        refine Nat.lt_of_not_le fun x => ?_
        rw [State.chanAt, List.getElem?_eq_none x] at k
        cases k
      simp [this]
  have hlt : ∀ i ∈ ids, i < s.chan.chans.length := fun i hi => by
    simp only [ids, State.select, State.channels, List.mem_filter, List.mem_range] at hi
    exact hi.1.1
  obtain ⟨a, b, c⟩ := forEach_handChan_waiting (hc ▸ l) ids hlt
  have hu : ∀ i, u.chanWord i = s.chanWord i := fun i => (congrArg (State.chanWord · i) a).trans rfl
  have hsame : ∀ i, i ∉ ids → s.chanWord i = before.chanWord i := by
    intro i hi
    unfold State.chanWord
    rw [hc, hq]
    cases k : before.chan.chans[i]? with
    | none => rfl
    | some c =>
      dsimp only
      cases e : c.cfg.enabled with
      | false => rfl
      | true =>
        have : before.gov c = s.gov c := by
          refine Decidable.byContradiction fun ne => hi ((hids i).mpr ⟨c, ?_, ne⟩)
          rw [State.chanAt, hc, k]
          simp [Option.filter, e]
        unfold State.gov at this
        rw [this]
  refine ⟨(congrArg (fun t => t.chan.chans.length) a).trans (by rw [hc]), fun i hi => ?_, .inl ⟨?_, ?_⟩⟩
  · by_cases m : i ∈ ids
    · refine .inr ?_
      rw [hu i]
      exact (b i hi).1 (.inl m)
    · exact .inl ⟨(hu i).trans (hsame i m), ((b i hi).2 m).trans (hr _ (chanWordAddr_shown hi))⟩
  · exact (congrArg (fun t => t.ramp.queue.length) a).trans (by rw [hq])
  · exact c.trans (hr _ (.inl rfl))

theorem enforceEntry_shows (s : State) : Shows s (enforceEntry s) := by
  unfold enforceEntry
  exact Shows.trans (dropHeldPins_shows s) (Shows.trans (forEach_shows setTarget_shows _ _)
    (Shows.trans (applyBatch_shows _ _ _)
      (Shows.trans (forEach_shows reaim_shows _ _) (testSettled_shows _))))

theorem frozenEntry_shows (s : State) : Shows s (frozenEntry s) := by
  unfold frozenEntry
  exact Shows.trans (forEach_shows setTarget_shows _ s)
    (Shows.trans (forEach_shows removeEntry_shows _ _) (testSettled_shows _))

theorem safeEntry_shows (s : State) : Shows s (safeEntry s) := by
  unfold safeEntry
  extract_lets u t
  exact Shows.trans (forEach_shows setTarget_shows _ s) (Shows.trans (t := t)
    (forEach_shows removeEntry_shows _ u) (Shows.trans (applyBatch_shows _ _ t) (testSettled_shows _)))

theorem observeEntry_shows (s : State) : Shows s (observeEntry s) := by
  unfold observeEntry
  exact Shows.trans (Shows.trans (emptyQueue_shows s) (dropHeldPins_shows _))
    (Shows.trans (forEach_shows setTarget_shows _ _) (testSettled_shows _))

/-! ### Landings and the ruling on a host write -/

theorem deriveFollower_shows (applied : Nat) (l : Link) (s : State) : Shows s (deriveFollower applied l s) :=
  Shows.trans (withChan_rel Shows.refl fun _ _ => updChan_shows _ _ _) (retarget_shows _ _)

theorem deriveFollowers_shows (leader applied : Nat) (s : State) :
    Shows s (deriveFollowers leader applied s) := by
  unfold deriveFollowers
  generalize s.chan.links.filter _ = links
  induction links generalizing s with
  | nil => exact .refl s
  | cons l links ih => exact Shows.trans (deriveFollower_shows applied l s) (ih _)

section
variable (i value : Nat) (s : State)

theorem landValue_shows (hostWrite : Bool) : Shows s (landValue i value hostWrite s) := by
  refine withChan_rel Shows.refl fun c _ => ?_
  extract_lets u v
  have h : Shows s v := Shows.trans (updChan_shows i _ s) (Shows.trans (setTarget_shows i u)
    (Shows.trans (reaimInPlace_shows i _) (catchUp_shows i _)))
  refine Shows.trans h (Shows.trans ?_ (testSettled_shows _))
  split
  · exact .refl v
  · exact deriveFollowers_shows i value v

theorem landLateWrite_shows : Shows s (landLateWrite i value s) := by
  refine withChan_rel Shows.refl fun c _ => ?_
  extract_lets u v w
  have h : Shows s v := Shows.trans (updChan_shows i _ s) (Shows.trans (retarget_shows i _)
    (reaimInPlace_shows i u))
  have k : Shows v w := by
    unfold w
    split
    · refine withChan_rel Shows.refl fun d _ => ?_
      split
      · exact .refl v
      · exact putEntry_shows i _ _ v
    · exact .refl v
  refine Shows.trans h (Shows.trans k (Shows.trans ?_ (testSettled_shows _)))
  split
  · exact .refl w
  · exact deriveFollowers_shows i value w

theorem compareNote_shows : Shows s (compareNote i value s) := by
  refine withChan_rel Shows.refl fun c _ => ?_
  split
  · exact updChan_shows i _ s
  · split
    · exact .refl s
    · exact Shows.trans (appendEvent_shows _ _ s) (updChan_shows i _ _)

theorem countAbsorbed_shows : Shows s (countAbsorbed s) := by
  unfold countAbsorbed
  simp only
  split
  · exact .refl s
  · exact Shows.trans (t := s.onChan _) (.still rfl (fun _ => rfl) rfl fun _ _ => rfl)
      (handWord_shows (by decide) _ _)

theorem absorbWrite_shows (reason : AbsorbReason) : Shows s (absorbWrite i value reason s) := by
  refine withChan_rel Shows.refl fun c _ => ?_
  simp only
  split
  · exact countAbsorbed_shows s
  · exact Shows.trans (countAbsorbed_shows s) (Shows.trans (recordEvent_shows _ _ _ _ _)
      (updChan_shows i _ _))

theorem setRequest_shows : Shows s (setRequest i value s) := by
  refine withChan_rel Shows.refl fun c _ => ?_
  split
  · exact .refl s
  · exact Shows.trans (updChan_shows i _ s) (setTarget_shows i _)

theorem rangeEvent_shows : Shows s (rangeEvent i value s) := by
  refine withChan_rel Shows.refl fun c _ => ?_
  split
  · exact recordEvent_shows _ _ _ _ s
  · exact .refl s

theorem startFlight_shows : Shows s (startFlight i s) := updChan_shows i _ s
theorem clearAbsorb_shows : Shows s (clearAbsorb i s) := updChan_shows i _ s

theorem ruleFollowed_shows : Shows s (ruleFollowed i value s).1 := by
  have h := Shows.trans (setRequest_shows i value s)
    (Shows.trans (compareNote_shows i value _) (clearAbsorb_shows i _))
  unfold ruleFollowed
  generalize clearAbsorb i (compareNote i value (setRequest i value s)) = u at h ⊢
  dsimp only
  split
  · exact h
  · split
    · exact Shows.trans h (Shows.trans (removeEntry_shows i u) (startFlight_shows i _))
    · exact Shows.trans h (reaim_shows i u)

/-- The ruling on a host write shows what it changes. -/
theorem ruleHostWrite_shows : Shows s (ruleHostWrite i value s).1 := by
  unfold ruleHostWrite
  split
  · exact .refl s
  · refine Shows.trans (rangeEvent_shows i value s) ?_
    generalize rangeEvent i value s = u
    have absorbed := fun (reason : AbsorbReason) =>
      Shows.trans (setRequest_shows i value u) (absorbWrite_shows i value _ reason)
    dsimp only
    split
    · exact .refl u
    · exact Shows.trans (setRequest_shows i value u) (Shows.trans (compareNote_shows i value _)
        (Shows.trans (clearAbsorb_shows i _) (startFlight_shows i _)))
    · split
      · exact absorbWrite_shows i value u _
      · split
        · exact absorbed .pinned
        · exact ruleFollowed_shows i value u
    · exact absorbed .frozen
    · exact absorbed .safe

end

end Sys2Proof.Machine
end

