-- ==== Sys2Proof/Tests/Slice0.lean ====
section
/-! SUPPORT. The model's own tests: ill-formed operands refused, single steps on small states, and for every
statement with hypotheses a concrete state that meets them, clause by clause. -/

namespace Sys2Proof.Tests

open Sys2Proof Sys2Proof.Machine

/-! ### Small states -/

/-- Start-up is over: UNPROFILED, RESET released, two webs on the board, every storage group passed. -/
def idle : State :=
  { State.reset with
    pins := ⟨false, false, true, false⟩
    test := ⟨⟨false, false, false, false⟩, true, true, false⟩ }

/-- A channel of the upper web: unlimited upward, pin at once, at the lowest word of the output image. -/
def burner : ChannelEntry := ⟨0x1000, .upper, .burner, true, true, 0, 0, 300, 100, 200, 8000⟩

/-- A SHARED channel, limited both ways, at the highest word of the output image. -/
def fan : ChannelEntry := ⟨0x7FFF, .shared, .fan, true, false, 0, 300, 300, 0, 50, 9000⟩

/-- A channel at rest at a value. -/
def at_ (e : ChannelEntry) (v : Nat) : Channel := ⟨e, none, v, v, false, false, false, false, false⟩

/-- Every target is the one that R33 gives, and every settled flag its condition. -/
def settle (s : State) : State :=
  let s := s.onChan fun u => { u with chans := u.chans.map fun c => { c with target := s.targetOf c } }
  s.onWeb fun u =>
    { u with
      upper := { u.upper with settled := s.webSettled .upper }
      lower := { u.lower with settled := s.webSettled .lower } }

/-- A web's record in a state. -/
def seqIn (st : WebState) : Sequencer :=
  { Sequencer.initial with
    state := st, trip := decide (st = .broken), spliceTimer := if st = .splicing then some 9 else none }

/-- A profile is active with a burner and a fan, one curve of two bands, in a mode and a state of each web.
SAFE and FROZEN stand for a liveness failure. -/
def live (m : Mode) (u l : WebState) : State :=
  settle { idle with
    chan := ⟨[at_ burner 5000, at_ fan 5000], [⟨0, 1, 500, true⟩], 0⟩
    speed := { SpeedUnit.initial with
      srcA := ⟨0, some 7, false, false⟩, active := some .a, valid := true, reported := 100, gateTimer := some 5
      curves := [[⟨0, 0, 9000⟩, ⟨300, 3000, 7500⟩]], bands := [0], gate := 200, ppmA := 50, ppmB := 60
      silence := 1000, hysteresis := 20 }
    ramp := ⟨some 100, [], none, false, 100, 2000⟩
    web := { WebUnit.initial with
      upper := seqIn u, lower := seqIn l, window := 3000, releaseDelay := 4000, webCount := 2 }
    mode := { ModeUnit.initial with
      mode := m, period := 500, dryhold := decide (m = .frozen ∨ m = .safe)
      causeLiveness := decide (m = .frozen ∨ m = .safe)
      livenessTimer := if m = .observe ∨ m = .enforce then some 500 else none }
    mem := [(0x1000, 5000), (0x7FFF, 5000)] }

/-- A state with entries in the impose queue and the scan-stall timer running. -/
def queued (q : List QueueEntry) (s : State) : State :=
  s.onRamp fun u => { u with queue := q, stallTimer := some 2000 }

/-- A state with an access that holds the port. -/
def holding (p : PortAccess) (s : State) : State := s.onArbiter fun u => { u with port := some p }

/-- A state with the qualified level of a line. -/
def lined (l : InputLine) (level : Bool) (s : State) : State :=
  s.onWeb (WebUnit.onInput l fun i => { i with level := level })

/-- The next state of an outcome, or else the state given. -/
def orElse (s : State) : Host.Outcome State Fault Refusal → State
  | .next t => t
  | .fault _ | .refused _ => s

/-- The state that a command gives. -/
def after (i : Instr) (s : State) : State := orElse s (exec i s)

/-- The state that a step gives. -/
def stepped (s : State) : State := orElse s (step s)

/-! ### Operands that no row speaks of -/

theorem test_badCode_below_10_is_ill_formed : (Instr.badCode 9).wellFormed = false := by decide
theorem test_enable_without_code_1_is_ill_formed : (Instr.enable 0x0020).wellFormed = false := by decide
theorem test_enable_with_an_unused_code_is_ill_formed : (Instr.enable 0x0051).wellFormed = false := by
  decide
theorem test_run_without_code_2_is_ill_formed : (Instr.run 0x0011).wellFormed = false := by decide
theorem test_rearm_without_code_3_is_ill_formed : (Instr.rearm 0x0044).wellFormed = false := by decide
theorem test_disable_without_code_4_is_ill_formed : (Instr.disable 0x0033).wellFormed = false := by decide
theorem test_webBadCode_with_used_codes_is_ill_formed : (Instr.webBadCode 0x0044).wellFormed = false := by
  decide
theorem test_webCommandNoAction_with_a_code_is_ill_formed :
    (Instr.webCommandNoAction 0x0010).wellFormed = false := by decide
theorem test_hostChannelWrite_below_the_image_is_ill_formed :
    (Instr.hostChannelWrite 0x0FFF 0).wellFormed = false := by decide
theorem test_hostChannelWrite_above_the_image_is_ill_formed :
    (Instr.hostChannelWrite 0x8000 0).wellFormed = false := by decide
theorem test_blockedWrite_of_general_memory_is_ill_formed :
    (Instr.blockedWrite 0x0700 0).wellFormed = false := by decide
theorem test_eventReadIndexWrite_above_63_is_ill_formed :
    (Instr.eventReadIndexWrite 64).wellFormed = false := by decide
theorem test_controlWrite_of_a_row_of_its_own_is_ill_formed :
    (Instr.controlWrite 0x0005 1).wellFormed = false := by decide
theorem test_plainWrite_of_the_control_area_is_ill_formed :
    (Instr.plainWrite 0x003F 0).wellFormed = false := by decide
theorem test_portGrant_with_the_summary_word_is_ill_formed :
    (Instr.portGrant (some 0x004F)).wellFormed = false := by decide

/-! ### Single steps -/

theorem test_no_word_spells_a_command : decodeTableWord 16 0x0001 = none := by decide
theorem test_the_step_takes_the_front_command :
    (match step { State.reset with pending := [.startUp, .lock] } with
      | .next t => t.pending
      | .fault _ | .refused _ => []) = [.lock] := by decide
theorem test_start_up_sets_busy : (after .startUp State.reset).busy = true := by decide
theorem test_start_up_ends_with_an_event :
    (after (.selfTestDone ⟨false, false, false, false⟩) (after .startUp State.reset)).report.ring.map (·.word0)
      = [0x0050] := by decide
theorem test_adopt_begins_the_read_pass :
    (after .adopt idle).profile.adoption = .reading false 0x0200 [] := by decide
theorem test_lock_is_refused_unprofiled : (after .lock idle).command.result = 0x0505 := by decide
theorem test_lock_locks : (after .lock (live .observe .off .off)).profile.lock = true := by decide
theorem test_a_high_code_is_shown_as_255 :
    (after (.badCode 0x1234) idle).command.result = 0xFF03 := by decide
theorem test_set_mode_meets_the_same_mode :
    (after .setMode (live .observe .off .off)).command.result = 0x0302 := by decide
theorem test_recover_names_the_standing_cause :
    (after .recover (live .safe .off .off)).command.detail1 = 1 := by decide
theorem test_enable_starts_threading :
    (after (.enable 0x0011) (live .enforce .off .off)).web.lower.state = .threading := by decide
theorem test_enable_of_one_web_leaves_the_other :
    (after (.enable 0x0001) (live .enforce .off .off)).web.lower.state = .off := by decide
theorem test_a_break_pins_the_burner_at_once :
    (after (.breakQualifiedAssertion .upper) (live .enforce .running .off)).ramp.queue.map
      (fun e => (e.channel, e.value)) = [(0, 200)] := by decide
theorem test_a_break_in_a_splice_is_deferred :
    (after (.breakQualifiedAssertion .upper) (live .enforce .splicing .off)).web.upper.state
      = .splicing := by decide
theorem test_a_splice_ends_in_a_break :
    (after (.spliceWindowExpiry .upper) (lined .breakU true (live .enforce .splicing .off))).web.upper.trip
      = true := by decide
theorem test_a_limited_write_is_held :
    (after (.hostChannelWrite 0x7FFF 6000) (live .enforce .running .off)).path.host = none := by decide
theorem test_an_unlimited_write_takes_the_port :
    (after (.hostChannelWrite 0x1000 9500) (live .enforce .running .off)).path.host
      = some ⟨0x1000, false, 9000, .channel⟩ := by decide
theorem test_a_write_that_lands_moves_the_channel :
    ((after .hostWriteCompletion (after (.hostChannelWrite 0x1000 9500)
      (live .enforce .running .off))).chanAt 0).map (·.applied) = some 9000 := by decide
theorem test_a_write_of_a_pinned_channel_is_absorbed :
    (after (.hostChannelWrite 0x1000 10001) (live .enforce .off .off)).chan.absorbed = 1 := by decide
theorem test_a_ramp_tick_steps_a_limited_channel :
    (after .rampTick (live .enforce .off .off)).ramp.queue.map (fun e => (e.channel, e.value))
      = [(0, 4700), (1, 4700)] := by decide
theorem test_a_changed_channel_word_and_the_depth_wait_for_the_mirror :
    (let t := after .rampTick (live .enforce .off .off);
      (t.report.waiting 0x0080, t.report.waiting 0x0054)) = (some 0x19, some 2) := by decide
theorem test_estop_takes_the_guard_to_safe :
    (after .estopQualifiedAssertion (live .enforce .running .off)).mode.mode = .safe := by decide
theorem test_liveness_failure_freezes :
    (after .livenessExpired (live .enforce .running .off)).mode.mode = .frozen := by decide
theorem test_a_gate_end_measures :
    (after .gateEnd ((live .enforce .running .off).onSpeed
      fun u => { u with srcA := { u.srcA with count := 50 } })).speed.reported = 300 := by decide
theorem test_silence_of_both_sources_is_unknown :
    (after (.silence .a) (live .enforce .running .off)).speed.valid = false := by decide
theorem test_a_silence_behind_its_pulse_is_none :
    (after (.silence .a) (after (.tachPulse .a) (live .enforce .running .off))).speed.valid = true := by
  decide
theorem test_an_expiry_behind_its_liveness_write_is_none :
    (after .livenessExpired (after (.livenessWrite 1) (live .enforce .running .off))).mode.mode = .enforce := by
  decide
theorem test_a_scan_stall_asserts_dryhold :
    (after .scanStall (queued [⟨0, 200, false, true⟩] (live .enforce .broken .off))).mode.dryhold = true := by
  decide
theorem test_a_blocked_write_is_counted :
    (after (.blockedWrite 0x0040 1) idle).path.blocked = 1 := by decide
theorem test_a_plain_write_stores :
    (after (.plainWrite 0x0700 0x1234) idle).readMem 0x0700 = 0x1234 := by decide
theorem test_an_acknowledge_clears :
    (after (.acknowledge 0x0004) (idle.onReport fun r => { r with latches := 0x0C })).report.latches
      = 0x08 := by decide
theorem test_reset_empties_the_mirror_list :
    (after .resetAssert (after .lock idle)).report.mirror = [] := by decide
theorem test_restart_stays_busy : (after .restart (live .enforce .running .off)).busy = true := by decide
theorem test_restart_records_the_mode_left :
    (stepped (after .restart (live .enforce .running .off))).report.ring.map (fun r => (r.word1, r.word2))
      = [(2, 0)] := by decide
theorem test_a_second_restart_names_the_first :
    (stepped (after .restart ((after .restart idle).onArbiter fun _ => ⟨.guard, none⟩))).report.ring.map
      (fun r => (r.word1, r.word2)) = [(0, 4)] := by decide +kernel
theorem test_a_full_blocked_count_hands_nothing_on :
    (after (.blockedWrite 0x0040 1) (idle.onPath fun u => { u with blocked := 65535 })).report.mirror
      = [] := by decide
theorem test_a_pinned_channel_lands_away_and_is_queued_at_once :
    (after .hostWriteCompletion (after (.breakQualifiedAssertion .upper)
      (after (.hostChannelWrite 0x1000 9000) ((live .enforce .running .off).onChan fun u =>
        { u with chans := [at_ burner 200] })))).ramp.queue = [⟨0, 200, false, true⟩] := by decide
theorem test_discard_is_refused_with_a_web_active :
    (after .discard (live .enforce .off .running)).command.result = 0x0206 := by decide

/-- A host write holds the port. -/
def writing (addr v : Word) (cls : AccessClass) (s : State) : State :=
  holding .host (s.onPath fun u => { u with host := some ⟨addr, false, v, cls⟩ })

theorem test_a_write_over_a_reset_is_handed_on_after_the_release :
    (after .hostWriteCompletion (after .startUp (after .resetAssert
      (writing 0x0001 7 .control idle)))).command.arg1 = 7 := by decide
theorem test_a_write_that_lands_under_reset_is_only_stored :
    (let t := after .hostWriteCompletion (after .resetAssert (writing 0x0001 7 .control idle));
      (t.readMem 0x0001, t.command.arg1)) = (7, 0) := by decide
theorem test_a_command_over_a_reset_is_missed_in_start_up :
    (let t := after .hostWriteCompletion (after .startUp (after .resetAssert (writing 0x0000 8 .control idle)));
      (t.command.overrun, t.command.work, t.command.result)) = (true, .startUp, 0) := by decide
theorem test_the_lowest_channel_of_one_kind_is_pinned_first :
    (after .estopQualifiedAssertion ((live .enforce .running .off).onChan fun u =>
      { u with chans := [at_ fan 5000, at_ { burner with kind := .fan } 5000, at_ burner 5000] })).ramp.queue.map
        (·.channel) = [2, 0, 1] := by decide

/-! ### States that meet the hypotheses of the statements -/

theorem witness_StepRunsTheFrontCommand : idle.pending = [] ∧ idle.command.work ≠ .restart := by decide

theorem witness_StepKeepsMemoryCanonical :
    (live .enforce .running .off).mem.wf ∧ (live .enforce .running .off).mem ≠ [] := by decide

theorem witness_StepKeepsWebLaws :
    WebLaw (live .enforce .broken .splicing) ∧ SettledLaw (live .enforce .broken .splicing) := by decide

/-- The burner's break value is on the port, and the fan stands at its own. -/
def settling : State :=
  settle { live .enforce .broken .off with
    chan := ⟨[at_ burner 5000, at_ fan 50], [], 0⟩
    ramp := ⟨some 100, [⟨0, 200, true, true⟩], some 5, false, 100, 2000⟩
    arbiter := ⟨.guard, some (.imposed 0 0x1000 200 true)⟩
    pending := [.imposedWriteCompletion] }

theorem witness_StepKeepsWebLaws_for_a_timer_that_starts :
    WebLaw settling ∧ SettledLaw settling ∧ settling.web.upper.releaseTimer = none ∧
      (stepped settling).web.upper.releaseTimer = some 4000 := by decide

theorem witness_StepKeepsSpeedLaw :
    SpeedLaw (live .enforce .running .off) ∧ SpeedLaw idle := by decide

theorem witness_StepKeepsModeLaws :
    ModeLaw (live .frozen .running .off) ∧ EstopLaw (live .frozen .running .off) ∧
      ModeLaw idle ∧ EstopLaw (lined .estop true (idle.onMode fun m => { m with estop := true })) := by
  decide

theorem witness_StepKeepsDryholdLaw :
    DryholdLaw (live .enforce .running .off) ∧ DryholdLaw (live .safe .off .off) := by decide

/-- A report unit with an unmasked cause latched and two words waiting. -/
def reporting : State :=
  idle.onReport fun r =>
    { r with
      latches := 0x04, mask := 0x0004, attn := true
      mirror := [⟨0x004F, 4, true, some 0⟩, ⟨0x0050, 1, false, none⟩] }

theorem witness_StepKeepsReportLaws : AttnLaw reporting ∧ MirrorLaw reporting := by decide

/-- A broken web with the burner's pinned value queued. -/
def breaking : State := queued [⟨0, 200, false, true⟩] (live .enforce .broken .off)

theorem witness_StepKeepsQueueLaws :
    QueueLaw breaking ∧ QuietLaw breaking ∧ StallLaw breaking ∧ QuietLaw idle ∧ StallLaw idle := by decide

theorem witness_StepKeepsUnprofiledAndOneWebLaws :
    UnprofiledLaw State.reset ∧ UnprofiledLaw (live .enforce .running .off) ∧
      LowerWebLaw (live .enforce .running .broken) ∧ LowerWebLaw State.reset :=
  ⟨by decide, by decide, ⟨by decide, by decide⟩, ⟨by decide, by decide⟩⟩

theorem witness_StepKeepsTargetLaw : TargetLaw (live .frozen .broken .running) := by decide

/-- The entry that waits holds its channel's target. -/
theorem witness_StepKeepsAimLaw :
    AimLaw breaking ∧ TargetLaw breaking ∧ QueueLaw breaking ∧ QuietLaw breaking := by
  refine ⟨?_, by decide, by decide, by decide⟩
  intro e he _ c hc
  have he : e = ⟨0, 200, false, true⟩ := by simpa [breaking, queued, State.onRamp] using he
  subst he
  have hd : breaking.chanAt 0 = some { at_ burner 5000 with target := 200 } := by decide
  obtain rfl := Option.some.inj (hc.symm.trans hd)
  decide

theorem witness_StepKeepsAppliedValuesInMemory :
    (live .enforce .running .off).mem.wf ∧ WordLaw (live .enforce .running .off) := by
  refine ⟨by decide, by decide, by decide, by decide, by decide, by decide, by decide, trivial, ?_, ?_⟩
  · exact ⟨by decide, fun a h => by simp [live, settle, idle, State.onChan, State.onWeb, State.reset] at h⟩
  · exact ⟨by decide, by decide, trivial⟩

/-- The words of a profile of one channel and one curve, but for the check word; the flag word of the
channel is given. -/
def oneChannel (flags : Word) : List Word :=
  [0x7a01, 0x55, 1, 1, 1, 0, 0x64, 0xc8, 0x32, 0x32, 0, 0x3e8] ++
    [0x14, 0x1f4, 0, 0, 0xbb8, 0x14, 0xfa0, 0x7d0, 0x10, 0, 0, 0] ++
    [0x1000, flags, 0x12c, 0x12c, 0, 0x5dc, 0xfa0, 0] ++ List.replicate 760 0 ++ [1, 0, 0, 9000] ++
    List.replicate 460 0

/-- The words other than 0 of the guard area that holds that profile, with the channel enabled. -/
def profileWords : Memory :=
  [(0x0200, 0x7a01), (0x0201, 0x55), (0x0202, 1), (0x0203, 1), (0x0204, 1), (0x0206, 0x64),
    (0x0207, 0xc8), (0x0208, 0x32), (0x0209, 0x32), (0x020B, 0x3e8), (0x020C, 0x14), (0x020D, 0x1f4)] ++
  [(0x0210, 0xbb8), (0x0211, 0x14), (0x0212, 0xfa0), (0x0213, 0x7d0), (0x0214, 0x10), (0x0220, 0x1000),
    (0x0221, 0x62), (0x0222, 0x12c), (0x0223, 0x12c), (0x0225, 0x5dc), (0x0226, 0xfa0), (0x0520, 1),
    (0x0523, 9000), (0x06F0, 0x0f7c)]

/-- That profile is active in OBSERVE. -/
def profiled : State :=
  let p := profileOf (oneChannel 0x62 ++ [0x0f7c])
  { idle with
    chan := ⟨p.entries.map fun e => at_ e 0, [], 0⟩
    speed := startSpeed p
    ramp := ⟨some 100, [], none, false, p.tick, p.gapTimeout⟩
    web := { WebUnit.initial with
      window := p.window, releaseDelay := p.releaseDelay, webCount := p.webCount, qualTime := p.qualTime }
    mode := { ModeUnit.initial with
      mode := .observe, period := p.period, faultAction := p.faultAction, recovery := p.recovery }
    report := { ReportUnit.initial with threshold := p.threshold, tag := p.tag }
    mem := profileWords }

theorem profiled_usesItsProfile : UsesProfile (profileOf (profiled.guardWords 0x06F1)) profiled := by
  decide +kernel

/-- A guard area that holds the active profile, and the start of a read pass. -/
theorem witness_StepKeepsAppliedValuesInMemory_for_the_guard_area :
    (profiled.mem.wf ∧ GuardLaw profiled) ∧ GuardLaw (after .adopt idle) := by
  refine ⟨⟨by decide +kernel, fun _ => profiled_usesItsProfile, trivial, ?_, ?_, ?_, trivial⟩,
    ⟨fun h => absurd rfl h, ⟨by decide, by decide, rfl⟩, ?_, ?_, by decide, trivial⟩⟩
  · intro a h; cases h
  · intro h; cases h
  · intro e h; cases h
  · intro a h; cases h
  · intro h; cases h

/-! The port -/

/-- A host write and a ring write both wait for the port. -/
def contest : State :=
  { idle with
    path := ⟨0, some ⟨0x0005, false, 1, .control⟩, [], 0⟩
    report := { idle.report with ring := [⟨63, 0x0050, 0, 0, 0, 3⟩] } }

/-- The guard had the last grant but one, so that the guard's access is next. -/
def guardNext (s : State) : State := s.onArbiter fun u => { u with record := .host }

/-- A request waits behind the host's bus, which is free. -/
def heldUp (r : HostRequest) (s : State) : State := s.onPath fun u => { u with held := [r] }

theorem witness_PortGrantArbitrates :
    (contest.path.host = some ⟨0x0005, false, 1, .control⟩ ∧
      (holding (.ring 0x01FF 0 true) contest).arbiter.port ≠ none ∧ contest.arbiter.port = none ∧
      contest.arbiter.record = .guard ∧ guardOffer (guardNext contest) = some (.ring 0x01FF 0 true)) ∧
    ((heldUp ⟨0x0005, some 1⟩ idle).path.host = none ∧ guardOffer (heldUp ⟨0x0005, some 1⟩ idle) = none ∧
      BeginsAs ⟨0x0005, some 1⟩ ⟨0x0005, false, 1, .control⟩ idle ∧
      BeginsAs ⟨0x0200, some 1⟩ ⟨0x0200, false, 1, .plain⟩ idle ∧
      BeginsAs ⟨0x0040, some 1⟩ ⟨0x0040, false, 1, .transparent⟩ State.reset ∧
      BeginsAs ⟨0x004F, none⟩ ⟨0x004F, true, 0, .read⟩ idle) ∧
    (idle.path.host = none ∧ idle.path.held = [] ∧ guardOffer idle = none ∧
      guardOffer reporting = some (.mirror 0x0050 1 true) ∧ reporting.arbiter.port = none) ∧
    (let s := heldUp ⟨0x01FF, some 1⟩ (holding (.ring 0x01FF 0 true) idle);
      s.path.host = none ∧ s.arbiter.port ≠ none ∧ s.pins.resetHeld = false ∧ IsBlocked 0x01FF 1 s) ∧
    (let s := heldUp ⟨0x1000, some 9500⟩ (live .enforce .running .off);
      s.path.host = none ∧ s.pins.resetHeld = false ∧ s.channelAt 0x1000 ≠ none ∧
        (after (.hostChannelWrite 0x1000 9500)
          (holding .host (live .enforce .running .off))).path.host ≠ none) :=
  ⟨by decide, ⟨by decide, by decide, by decide, by decide, by decide, by decide⟩, by decide, by decide,
    by decide⟩

/-- A read of the summary word waits for the port, in READ mode with a cause latched and shown. -/
def summing (s : State) : State :=
  { s with
    path := ⟨0, some ⟨0x004F, true, 0, .read⟩, [], 0⟩
    report := { s.report with ackMode := 1, latches := 4 }
    mem := [(0x004F, 4)] }

theorem witness_PortGrantArbitrates_for_a_read_of_the_summary_word :
    ∀ s ∈ [summing idle, summing State.reset],
      s.path.host = some ⟨0x004F, true, 0, .read⟩ ∧ s.path.held = [] ∧ s.arbiter.port = none ∧
        guardOffer s = none ∧ s.pins.resetHeld = decide (s ≠ summing idle) ∧
        (after (.portGrant none) s).report.latches = (if s.pins.resetHeld then 4 else 0) := by decide

/-- The burner's entry waits while GAP is asserted. -/
def offering : State := breaking.onPins fun p => { p with gap := true }

theorem witness_GuardOffersInOrder :
    State.reset.pins.resetHeld = true ∧
    (offering.pins.resetHeld = false ∧ offering.pins.gap = true ∧
      offering.ramp.queue.find? (fun e => !e.granted) = some ⟨0, 200, false, true⟩ ∧
      (offering.chanAt 0).isSome = true) ∧
    (contest.pins.gap = false ∧ contest.report.ring = [⟨63, 0x0050, 0, 0, 0, 3⟩] ∧
      ([0x0050, 0, 0, 0] : List Word)[3]? = some 0) ∧
    (reporting.report.ring = [] ∧
      reporting.report.mirror.find? (fun e => !e.granted) = some ⟨0x0050, 1, false, none⟩) ∧
    (breaking.ramp.queue.map (·.granted) = [false] ∧ breaking.pins.gap = false ∧ breaking.report.ring = []) ∧
    (after .adopt idle).profile.adoption = .reading false 0x0200 [] ∧
    (idle.report.ring = [] ∧ idle.report.mirror = [] ∧ idle.profile.adoption = .idle ∧
      idle.pins.resetHeld = false ∧ idle.pins.gap = false) := by decide

theorem witness_RingWriteLands :
    ((holding (.ring 0x01FF 0 false) idle).arbiter.port = some (.ring 0x01FF 0 false) ∧ idle.mem.wf) ∧
    ((contest.onReport fun r => { r with threshold := 2 }).report.unread < 2 ∧
      contest.report.unread < contest.report.threshold) ∧
    (∀ k ∈ [0, 2, 3], (holding (.ring 0x01FF 0 true) (contest.onReport fun r =>
      { r with ring := [⟨63, 0x0050, 0, 0, 0, k⟩] })).report.ring = [⟨63, 0x0050, 0, 0, 0, k⟩]) ∧
    contest.mem.wf := by decide

theorem witness_MirrorWriteLands :
    (holding (.mirror 0x004F 4 false) idle).arbiter.port = some (.mirror 0x004F 4 false) ∧
    (holding (.mirror 0x004F 4 true) reporting).mem.wf ∧ MirrorLaw (holding (.mirror 0x004F 4 true) reporting) ∧
      reporting.report.mirror = [] ++ ⟨0x004F, 4, true, some 0⟩ :: [⟨0x0050, 1, false, none⟩] := by decide

theorem witness_EventsAreAppendedWhole :
    (idle.onReport fun r => { r with writeIndex := 62 }).report.unread + 0 + 1 ≤ 63 ∧
      63 < (idle.onReport fun r => { r with writeIndex := 63 }).report.unread + 0 + 1 := by decide

/-! The host's accesses -/

theorem witness_HeldResetIsTransparent :
    (Instr.hostChannelWrite 0x7FFF 1).write = some (0x7FFF, 1) ∧ State.reset.mem.wf ∧
      State.reset.pins.resetHeld = true ∧ HostFree State.reset := by decide

theorem witness_ContendedWriteWaits :
    ((Instr.controlWrite 0x003F 1).write = some (0x003F, 1) ∧ BusFree (holding (.ring 0x01FF 0 true) idle) ∧
      (holding (.ring 0x01FF 0 true) idle).arbiter.port ≠ none) ∧
    (BusFree (reporting.onArbiter fun _ => ⟨.host, none⟩) ∧
      guardOffer (reporting.onArbiter fun _ => ⟨.host, none⟩) ≠ none) ∧
    ¬IsBlocked 0x003F 1 idle ∧ (¬IsBlocked 0x0200 1 idle ∧ idle.channelAt 0x0200 = none) ∧
    (let s := holding (.ring 0x01FF 0 true) (live .enforce .running .off);
      BusFree s ∧ s.channelAt 0x1000 ≠ none ∧ s.channelAt 0x7FFF ≠ none) ∧
    (let s := holding (.ring 0x01FF 0 false) State.reset;
      BusFree s ∧ s.arbiter.port ≠ none ∧ s.pins.resetHeld = true) ∧
    contest.path.host ≠ none := by decide

/-- A word waits on the mirror list, the port is free and the host had the last grant. -/
def mirrorNext : State :=
  (live .enforce .running .off).onReport fun r => { r with mirror := [⟨0x0054, 0, false, none⟩] }

theorem witness_ContendedWriteWaits_for_a_channel_word :
    (let s := guardNext mirrorNext;
      BusFree s ∧ s.arbiter.port = none ∧ s.arbiter.record = .host ∧ guardOffer s ≠ none ∧
        s.pins.resetHeld = false ∧ s.channelAt 0x1000 ≠ none ∧
        (∀ e ∈ s.report.mirror, e.granted = false) ∧
        (after (.hostChannelWrite 0x1000 9500) s).path.host = some ⟨0x1000, false, 9000, .channel⟩ ∧
        (after (.hostChannelWrite 0x1000 9500) s).arbiter.port = none) := by decide

theorem witness_BlockedWriteOnlyCounts :
    (Instr.lock.write = some (0x0000, 5) ∧ BusFree (after .startUp State.reset) ∧
      (after .startUp State.reset).pins.resetHeld = false ∧
      (after .startUp State.reset).command.work ≠ .none) ∧
    (Instr.eventReadIndexWrite 64).write = some (0x0009, 64) ∧
    (Instr.blockedWrite 0x0040 1).write = some (0x0040, 1) ∧
    (Instr.blockedWrite 0x01FF 1).write = some (0x01FF, 1) ∧
    ((Instr.blockedWrite 0x0200 1).write = some (0x0200, 1) ∧ BusFree (live .observe .off .off) ∧
      (Instr.blockedWrite 0x06FF 1).write = some (0x06FF, 1) ∧
      (live .observe .off .off).mode.mode ≠ .unprofiled) := by decide

theorem witness_PlainWriteOnlyStores :
    (idle.mem.wf ∧ HostFree idle ∧ idle.pins.resetHeld = false ∧ idle.mode.mode = .unprofiled ∧
      idle.profile.lock = false ∧ idle.channelAt 0x0200 = none ∧ idle.profile.adoption = .idle) ∧
    ((live .enforce .off .off).channelAt 0x7FFE = none ∧ HostFree (live .enforce .off .off)) := by decide

theorem witness_LivenessWriteRestartsOrIsSeen :
    (live .frozen .off .off).mem.wf ∧ HostFree (live .frozen .off .off) ∧
      (live .frozen .off .off).pins.resetHeld = false ∧ HostFree (live .enforce .off .off) := by decide


theorem witness_ControlWordsSetTheirCopies :
    (idle.mem.wf ∧ HostFree idle ∧ idle.pins.resetHeld = false) ∧ isOtherControlWrite 0x0001 9 = true ∧
      isOtherControlWrite 0x0007 9 = true ∧ isOtherControlWrite 0x003F 9 = true ∧
      (isOtherControlWrite 0 0 = true ∧ idle.command.work = .none) ∧ (63 : Word).toNat ≤ 63 :=
  ⟨by decide, by decide, by decide, by decide, by decide, by decide⟩

theorem witness_AcknowledgesClearCauses :
    let s := reporting.onReport fun r => { r with mirror := [], ackMode := 1 }
    s.mem.wf ∧ HostFree s ∧ s.pins.resetHeld = false ∧ AttnLaw s := by decide

/-! The channels -/

theorem witness_SharedChannelFollowsBothWebs :
    (live .enforce .broken .running).webExists .lower = true ∧
      (idle.webExists .lower = false ∧ idle.web.lower.state = .off) := by decide

theorem witness_TargetIsByModeAndGoverningState :
    (∀ u ∈ [WebState.off, .threading, .running, .broken],
      ((live .enforce u .off).chan.chans.map (live .enforce u .off).gov) = [u.governs, u.governs]) ∧
    (let s := live .enforce .running .off;
      s.speed.curves[burner.curve]? = some [⟨0, 0, 9000⟩, ⟨300, 3000, 7500⟩] ∧
        s.speed.bands[burner.curve]? = some 0) ∧
    (live .safe .off .off).mode.mode = .safe ∧ (live .frozen .off .off).mode.mode = .frozen := by decide

theorem witness_ObserveWriteIsPerformedAsWritten :
    let s := live .observe .running .off
    HostNext s ∧ s.pins.resetHeld = false ∧ TargetLaw s ∧ s.mode.mode = .observe ∧
      (s.channelAt 0x1000 = some 0 ∧ (s.chan.chans[0]?).isSome = true) ∧
      s.channelAt 0x7FFF = some 1 ∧ (s.chan.chans[1]?).isSome = true := by decide

theorem witness_AbsorbedWriteIsKeptAsRequest :
    let follows := fun (s : State) => s.onChan fun u =>
      { u with chans := u.chans.map fun c => { c with follower := true } }
    let meets := fun (s : State) =>
      BusFree s ∧ s.pins.resetHeld = false ∧ TargetLaw s ∧ s.channelAt 0x7FFF = some 1
    (live .safe .running .off).chan.chans.length ≤ 96 ∧ meets (follows (live .enforce .running .off)) ∧
      (meets (live .enforce .off .off) ∧ (live .enforce .off .off).governing .shared = .off) ∧
      (meets (live .enforce .broken .off) ∧ (live .enforce .broken .off).governing .shared = .broken) ∧
      meets (live .frozen .running .off) ∧ meets (live .safe .running .off) := by decide

theorem witness_EnforceWriteIsPerformedWithTheTarget :
    let s := live .enforce .running .off
    let c := { at_ burner 5000 with requested := some 9500 }
    HostNext s ∧ s.mode.mode = .enforce ∧ s.channelAt 0x1000 = some 0 ∧
      s.chan.chans[0]? = some (at_ burner 5000) ∧ s.gov c = .running ∧
      ({ c with target := s.targetOf c } : Channel).slew = 0 ∧
      (live .enforce .threading .off).gov c = .threading := by decide

/-- The one entry that waits is the burner's, and the queue has stalled. -/
def stalled (s : State) : State := s.onRamp fun u => { u with queue := [⟨0, 200, false, false⟩], stallFlag := true }

theorem witness_EnforceWriteIsPerformedWithTheTarget_with_a_stall :
    let s := stalled (live .enforce .running .off)
    HostNext s ∧ s.entryGranted 0 = false ∧ (s.ramp.queue.filter fun e => decide (e.channel ≠ 0)) = [] ∧
      s.ramp.stallFlag = true ∧ (after (.hostChannelWrite 0x1000 9500) s).ramp.queue = [] := by decide

theorem witness_LimitedWriteIsHeldForTheRamp :
    let s := live .enforce .running .off
    let c := { at_ fan 5000 with requested := some 6000 }
    BusFree s ∧ s.mode.mode = .enforce ∧ s.channelAt 0x7FFF = some 1 ∧
      s.chan.chans[1]? = some (at_ fan 5000) ∧ s.gov c = .running ∧ s.targetOf c ≠ c.applied ∧
      ({ c with target := s.targetOf c } : Channel).slew ≠ 0 := by decide

/-- A profile of the burner and the fan, linked, with one curve. -/
def staged : Profile where
  tag := 7
  webCount := 2
  entries := [burner, fan]
  curves := [[⟨0, 0, 9000⟩]]
  links := [⟨0, 1, 500, true⟩]
  tick := 100
  gate := 200
  ppmA := 50
  ppmB := 60
  primary := .a
  silence := 1000
  hysteresis := 20
  period := 500
  faultAction := .freeze
  recovery := .command
  window := 3000
  qualTime := 20
  releaseDelay := 4000
  gapTimeout := 2000
  threshold := 16

/-- An adoption into ENFORCE captures the fan, with the burner captured. -/
def capturing : State :=
  idle.onProfile fun u => { u with adoption := .capturing true staged 1 [some 5000, none] }

theorem witness_HostWriteLands :
    (let s := writing 0x1000 9000 .channel (live .enforce .running .off);
      s.mem.wf ∧ s.arbiter.port = some .host ∧ s.channelAt 0x1000 = some 0) ∧
    (let s := writing 0x0700 1 .plain idle;
      s.arbiter.port = some .host ∧ s.channelAt 0x0700 = none ∧ s.profile.adoption = .idle) ∧
    (let s := writing 0x1000 1 .plain capturing;
      s.arbiter.port = some .host ∧ s.channelAt 0x1000 = none ∧
        [burner, fan].findIdx? (fun e => e.enabled && decide (e.addr = 0x1000)) = some 0) ∧
    (let s := writing 0x1000 9000 .channel (live .safe .running .off);
      LinkLaw s.chan.links ∧ pendingOf 0 s.ramp.queue = none ∧
        s.chan.links[0]? = some ⟨0, 1, 500, true⟩ ∧ (s.chanAt 0).map (·.applied) = some 5000) ∧
    (let s := writing 0x0000 8 .control (after .startUp State.reset);
      s.mem.wf ∧ s.arbiter.port = some .host ∧ s.pins.resetHeld = false ∧ s.command.work ≠ .none) ∧
    (let s := writing 0x0001 7 .control State.reset;
      s.arbiter.port = some .host ∧ s.pins.resetHeld = true) := by decide

theorem witness_PlainWriteOnlyStores_in_a_capture_pass :
    HostFree capturing ∧ capturing.channelAt 0x1000 = none ∧ capturing.pins.resetHeld = false ∧
      capturing.profile.adoption = .capturing true staged 1 [some 5000, none] ∧
      staged.entries.findIdx? (fun e => e.enabled && decide (e.addr = 0x1000)) = some 0 ∧
      staged.entries.findIdx? (fun e => e.enabled && decide (e.addr = 0x7FFF)) = some 1 ∧
      staged.entries.findIdx? (fun e => e.enabled && decide (e.addr = 0x0700)) = none := by decide

theorem witness_GuardOffersInOrder_in_a_capture_pass :
    capturing.pins.gap = false ∧ capturing.report.ring = [] ∧ capturing.report.mirror = [] ∧
      staged.entries[1]? = some fan := by decide

theorem witness_ImposedWriteLands :
    (let s := holding (.imposed 0 0x1000 200 true)
        (queued [⟨0, 200, true, true⟩] (live .enforce .broken .off));
      s.mem.wf ∧ QueueLaw s ∧ (s.chanAt 0).isSome = true ∧ s.entryGranted 0 = true ∧
        LinkLaw s.chan.links ∧ (s.chanAt 0).map (·.inFlight) = some false ∧
        s.ramp.queue = [⟨0, 200, true, true⟩] ∧
        s.chan.links[0]? = some ⟨0, 1, 500, true⟩ ∧ s.ramp.stallFlag = false ∧
        (after .imposedWriteCompletion s).ramp.queue = []) ∧
    (let s := holding (.imposed 0 0x1000 200 true)
        ((live .enforce .broken .off).onRamp fun u =>
          { u with queue := [⟨0, 200, true, true⟩], stallFlag := true });
      LinkLaw s.chan.links ∧ s.ramp.stallFlag = true ∧ (after .imposedWriteCompletion s).ramp.queue = []) ∧
    (let s := holding (.imposed 0 0x1000 200 true) (queued [⟨0, 200, true, true⟩] (live .safe .broken .off));
      QueueLaw s ∧ (after .imposedWriteCompletion s).ramp.queue.map (·.value) = [100]) ∧
    (holding (.imposed 0 0x1000 200 false) idle).arbiter.port = some (.imposed 0 0x1000 200 false) := by
  decide

theorem witness_OfferedWriteKeepsTheSlew :
    offering.mode.mode = .enforce ∧ guardOffer offering = some (.imposed 0 0x1000 200 true) := by decide

theorem witness_RampTickQueuesSteps :
    (live .safe .off .off).ramp.rampTimer.isSome = true ∧ QueueLaw (live .safe .off .off) ∧
      (live .frozen .broken .running).ramp.rampTimer.isSome = true ∧ QueueLaw (live .frozen .broken .running) ∧
      breaking.ramp.rampTimer.isSome = true ∧ QueueLaw breaking := by decide

theorem witness_PinBatchKeepsPlacesAndKindOrder :
    QueueLaw breaking ∧ [1, 0].Nodup ∧ [0, 1].Pairwise (· < ·) ∧
      ∀ i ∈ [1, 0], ((breaking.chanAt i).map (·.inFlight)) = some false ∧
        breaking.entryGranted i = false := by decide

theorem witness_ScanStallIsReported :
    breaking.ramp.stallTimer.isSome = true ∧ breaking.ramp.queue = ⟨0, 200, false, true⟩ :: [] := by decide

/-! Profiles and the command word -/

/-- ENFORCE is asked for. -/
def asking (s : State) : State := s.onCommand fun c => { c with arg1 := 1 }

theorem witness_AdoptIsCheckedThenReads :
    (TakesCommands (live .observe .off .off) ∧ (live .observe .off .off).mem.wf) ∧
      (TakesCommands idle ∧ idle.mode.mode = .unprofiled ∧ idle.test.flags.failed = false) ∧
      TakesCommands (asking idle) ∧ TakesCommands (idle.onCommand fun c => { c with arg1 := 2 }) ∧
      TakesCommands (idle.onProfile fun u => { u with lock := true }) := by decide

/-- An adoption read of a word of the guard area holds the port. -/
def reading (pos : Nat) (ws : List Word) : State :=
  holding (.adoptionRead (wordOf pos) true)
    (idle.onProfile fun u => { u with adoption := .reading false pos ws })

theorem witness_AdoptionReadsThenChecks :
    (∀ pos ∈ [0x0200, 0x0217, 0x0218, 0x021F, 0x0220],
      (reading pos []).profile.adoption = .reading false pos []) ∧
    (reading 0x06F0 []).arbiter.port = some (.adoptionRead 0x06F0 true) ∧
    (holding (.adoptionRead 0x0200 false) idle).arbiter.port = some (.adoptionRead 0x0200 false) ∧
    checkProfile true [0] = some (.format, 0x0200) := by decide

theorem witness_AdoptionReadsThenChecks_for_a_sound_profile :
    (checkProfile false (oneChannel 0x62 ++ [0xf7c]) = none ∧
      stagedAt (oneChannel 0x62 ++ [0xf7c]) 0x0203 = 1 ∧
      entryEnabled (stagedAt (oneChannel 0x62 ++ [0xf7c])) 0 = true) ∧
    checkProfile false (oneChannel 0x42 ++ [0xf9c]) = none ∧
      ∀ e ∈ (profileOf (oneChannel 0x42 ++ [0xf9c])).entries, e.enabled = false := by
  decide +kernel

theorem witness_LastCaptureMakesTheProfileActive :
    (holding (.captureRead 1 0x7FFF true) capturing).arbiter.port = some (.captureRead 1 0x7FFF true) ∧
      (holding (.captureRead 1 0x7FFF false) idle).arbiter.port = some (.captureRead 1 0x7FFF false) ∧
      staged.entries.length ≤ 96 ∧
      (let s := capturing.onWeb fun u => { u with estopLine := ⟨true, false, some 20, false⟩ };
        s.estopAsserts staged.qualTime = true ∧ s.heldFor 21 .estop = false) := by decide

theorem witness_DiscardRemovesTheProfile :
    TakesCommands idle ∧ TakesCommands (live .enforce .off .running) ∧
      (TakesCommands (live .enforce .off .off) ∧ (live .enforce .off .off).mode.mode ≠ .unprofiled ∧
        (live .enforce .off .off).web.lower.state = .off) ∧
      (let s := (lined .estop true (live .safe .off .off)).onWeb fun u =>
          { u with estopLine := { u.estopLine with qualifier := some 5 } };
        s.estopNegates 5 = true ∧ TakesCommands s) := by decide

theorem witness_SimpleCommandsAreAnswered :
    idle.mem.wf ∧ TakesCommands idle ∧ (live .safe .off .off).mem.wf ∧ TakesCommands (live .safe .off .off) ∧
      10 ≤ (10 : Word).toNat ∧ 10 ≤ (65535 : Word).toNat := by decide

theorem witness_SetModeEntersTheModeAskedFor :
    TakesCommands idle ∧ TakesCommands (live .observe .off .off) ∧
      (TakesCommands (asking (live .observe .off .off)) ∧
        (asking (live .observe .off .off)).mode.mode = .observe) ∧
      (let s := asking ((live .observe .off .off).onMode fun m => { m with estop := true });
        TakesCommands s ∧ s.mode.estop = true) ∧
      (TakesCommands (live .enforce .running .off) ∧ (live .enforce .running .off).profile.lock = false) ∧
      (live .enforce .running .off).mem.wf := by decide

theorem witness_RecoverReturnsToEnforce :
    TakesCommands idle ∧ TakesCommands (live .frozen .running .off) ∧
      TakesCommands ((live .safe .running .off).onMode fun m => { m with recovery := .resetOnly }) ∧
      (let s := (live .safe .running .off).onMode fun m => { m with pulseSeen := true };
        TakesCommands s ∧ s.mem.wf ∧ s.mode.causeEstop = false ∧ s.mode.recovery = .command) := by decide

theorem witness_SelfTestRunsAndIsAnswered :
    (TakesCommands (live .observe .off .off) ∧ (live .observe .off .off).mode.mode ≠ .unprofiled) ∧
      (let s := idle.onMode fun m => { m with dryhold := true };
        TakesCommands s ∧ s.mode.mode = .unprofiled ∧ DryholdLaw s ∧ s.mem.wf) ∧
      (after .selfTest idle).command.work = .selfTest := by decide

theorem witness_RestartKeepsWhatItMust :
    (idle.mem.wf ∧ HostFree idle ∧ idle.pins.resetHeld = false ∧ idle.command.work ≠ .selfTest) ∧
      (let s := idle.onCommand fun c => { c with work := .selfTest };
        HostFree s ∧ s.command.work = .selfTest) ∧
      (let s := after .restart idle;
        s.pending = [] ∧ s.command.work = .restart ∧ s.report.ring = [] ∧ s.report.unread ≤ 62) := by decide

/-! Webs, lines and the mode -/

theorem witness_WebCommandWordIsTaken :
    (Instr.enable 0x0011).write = some (0x0004, 0x0011) ∧
      (∀ s ∈ [idle, live .enforce .off .broken, live .safe .running .off],
        s.mem.wf ∧ HostFree s ∧ s.pins.resetHeld = false ∧ TargetLaw s ∧ SettledLaw s) ∧
      4 < upperField 0x0005 ∧ 4 < lowerField 0x0050 ∧ upperField 0x0044 ≤ 4 ∧ lowerField 0x0044 ≤ 4 := by
  decide

theorem witness_LinesAreQualified :
    (live .enforce .running .off).watching = true ∧
      (lined .breakU true (live .enforce .running .off)).breakLevel .upper = true ∧
      (idle.breakLevel .upper = false ∧ idle.webExists .upper = false ∧ idle.watching = true) ∧
      ((live .enforce .off .off).breakLevel .lower = false ∧ (live .enforce .off .off).web.lower.state = .off) ∧
      ((live .enforce .off .off).spliceLevel .upper = false ∧
        (live .enforce .off .off).web.upper.state ≠ .running) ∧
      ((lined .spliceU true idle).spliceLevel .upper = true ∧ (lined .spliceU true idle).watching = true) := by
  decide

theorem witness_BreakIsTakenOrDeferred :
    (∀ u ∈ [WebState.threading, .running, .splicing],
      let s := live .enforce u .off
      s.chan.chans.length ≤ 96 ∧ s.watching = true ∧ s.breakLevel .upper = false ∧
        s.webExists .upper = true ∧ s.web.upper.state = u ∧ TargetLaw s ∧ SettledLaw s) := by decide

theorem witness_SpliceStartsAndItsLatchClears :
    (let s := live .enforce .running .off;
      s.watching = true ∧ s.webExists .upper = true ∧ SettledLaw s ∧ s.spliceLevel .upper = false ∧
        s.web.upper.state = .running ∧ s.web.upper.spliceLatched = false) ∧
    (let s := lined .spliceL true (live .enforce .running .broken);
      s.watching = true ∧ s.webExists .lower = true ∧ SettledLaw s ∧ s.spliceLevel .lower = true ∧
        s.web.lower.state ≠ .splicing) := by decide

theorem witness_SpliceEndsByTheBreakLine :
    ∀ b ∈ [false, true],
      let s := lined .spliceU true (lined .breakU b (live .enforce .splicing .off))
      s.web.upper.state = .splicing ∧ SettledLaw s ∧ TargetLaw s ∧ s.watching = true ∧
        s.spliceLevel .upper = true ∧ s.webExists .upper = true ∧ s.web.upper.spliceTimer.isSome = true ∧
        s.breakLevel .upper = b := by decide

theorem witness_TripIsReleased :
    ((live .enforce .broken .off).onWeb fun u =>
      { u with upper := { u.upper with releaseTimer := some 0 } }).web.upper.releaseTimer.isSome = true := by
  decide

theorem witness_EstopIsTaken :
    (∀ m ∈ [Mode.observe, .enforce, .frozen, .safe],
      let s := live m .running .off
      s.chan.chans.length ≤ 96 ∧ s.watching = true ∧ s.web.estopLine.level = false ∧ s.mode.mode = m) ∧
    (let s := lined .estop true (live .safe .running .off);
      s.watching = true ∧ s.web.estopLine.level = true) := by decide

theorem witness_LivenessExpiryActs :
    (live .observe .off .off).mode.livenessTimer.isSome = true ∧
      (live .observe .off .off).mode.livenessRenewed = false ∧
      (after (.livenessWrite 1) (live .enforce .off .off)).mode.livenessRenewed = true ∧
      (let s := after .estopQualifiedAssertion (live .enforce .off .off);
        s.mode.mode = .safe ∧ s.mode.livenessMet = true ∧ s.mode.livenessRenewed = false) ∧
      (live .enforce .running .off).mode.livenessTimer.isSome = true ∧
      (live .enforce .running .off).mode.faultAction = .freeze ∧
      ((live .enforce .running .off).onMode fun m =>
        { m with faultAction := .safe }).mode.livenessTimer.isSome = true := by decide

/-- The fan's step and the burner's pinned value wait, the fan running and the burner's web broken. -/
def twoWaiting : State := queued [⟨1, 4700, false, false⟩, ⟨0, 200, false, true⟩] (live .enforce .broken .running)

theorem witness_LivenessExpiryActs_with_a_pinned_entry :
    twoWaiting.mode.livenessTimer.isSome = true ∧ twoWaiting.mode.mode = .enforce ∧
      twoWaiting.chan.chans.length ≤ 96 ∧
      (twoWaiting.chan.chans.map twoWaiting.gov) = [.broken, .running] ∧
      (after .livenessExpired twoWaiting).ramp.queue = [⟨0, 200, false, true⟩] := by decide

/-! Speed, reset and start-up -/

/-- Three bands, from 0, 300 and 600. -/
def threeBands : List Breakpoint := [⟨0, 0, 9000⟩, ⟨300, 0, 9000⟩, ⟨600, 0, 9000⟩]

theorem witness_BandMovesByThresholdAndHysteresis :
    threeBands.Pairwise (fun a b => a.threshold < b.threshold) ∧
      selectBand 300 20 threeBands 0 = 1 ∧ selectBand 299 20 threeBands 0 = 0 ∧
      selectBand 580 20 threeBands 2 = 2 ∧ selectBand 579 20 threeBands 2 = 1 ∧
      selectBand 279 20 threeBands 2 = 0 := by decide

theorem witness_GateEndMeasuresTheSpeed :
    (let s := live .enforce .running .off;
      s.speed.gateTimer.isSome = true ∧ s.speed.active = some .a ∧ (s.speed.src .a).silent = false ∧
        TargetLaw s ∧ s.chan.chans.length ≤ 96 ∧ s.speed.bands.length ≤ 16) ∧
    (let s := (live .enforce .running .off).onSpeed fun u => { u with active := some .b };
      s.speed.active = some .b ∧ (s.speed.src .b).silent = true) := by decide

/-- The speed is about to reach the second band, below whose minimum the burner stands. -/
def reaiming : State :=
  settle (((live .enforce .running .off).onChan fun u =>
    { u with chans := [at_ burner 1000, at_ fan 5000] }).onSpeed fun u =>
      { u with srcA := { u.srcA with count := 50 } })

theorem witness_GateEndMeasuresTheSpeed_for_a_channel_re_aimed :
    TargetLaw reaiming ∧ reaiming.chan.chans.length ≤ 96 ∧ reaiming.speed.bands.length ≤ 16 ∧
      (reaiming.speed.src .a).silent = false ∧ (reaiming.chanAt 0).map (·.target) = some 1000 ∧
      reaiming.entryGranted 0 = false ∧ (reaiming.chanAt 0).map (·.inFlight) = some false ∧
      (after .gateEnd reaiming).ramp.queue = [⟨0, 3000, false, false⟩] := by decide

/-- The burner stands at the second band's minimum, and the speed is about to be unknown. -/
def fading : State :=
  settle ((live .enforce .running .off).onChan (fun u =>
    { u with chans := [{ at_ burner 3000 with requested := some 4000, applied := 3000 }, at_ fan 5000] })
    |>.onSpeed fun u => { u with curves := [[⟨0, 0, 9000⟩, ⟨300, 0, 3000⟩]], bands := [1] })

theorem witness_PulsesAndSilenceChooseTheSource_for_a_channel_re_aimed :
    TargetLaw fading ∧ (fading.speed.src .a).renewed = false ∧ (fading.speed.src .a).timer.isSome = true ∧
      fading.speed.active = some .a ∧ (fading.speed.src .b).silent = true ∧ fading.speed.valid = true ∧
      fading.chan.chans.length ≤ 96 ∧ fading.speed.bands = [1] ∧
      (fading.chanAt 0).map (·.target) = some 3000 ∧
      (after (.silence .a) fading).ramp.queue = [⟨0, 4000, false, false⟩] := by decide

theorem witness_PulsesAndSilenceChooseTheSource :
    idle.mode.mode = .unprofiled ∧ (live .enforce .running .off).mode.mode ≠ .unprofiled ∧
      (let s := live .enforce .running .off;
        (s.speed.src .a).renewed = false ∧ (s.speed.src .a).timer.isSome = true ∧
          s.speed.active = some .a ∧ (s.speed.src .b).silent = true ∧ s.speed.valid = true ∧ TargetLaw s) ∧
      ((after (.tachPulse .a) (live .enforce .running .off)).speed.src .a).renewed = true ∧
      (let s := (live .enforce .running .off).onSpeed fun u => { u with srcB := ⟨0, some 7, false, false⟩ };
        (s.speed.src .a).timer.isSome = true ∧ (s.speed.src .b).silent = false) := by decide

theorem witness_ResetClearsAndTimeCounts :
    idle.pins.resetHeld = false ∧ State.reset.pins.resetHeld = true := by decide

theorem witness_StartUpTestsAndPlacesTheStatus :
    State.reset.pins.resetHeld = true ∧ (after .startUp State.reset).command.work = .startUp ∧
      (after .startUp State.reset).report.ring = [] := by decide

theorem witness_ProfilePassesExactlyWhenEveryTestPasses :
    checkProfile true [] = some (.format, 0x0200) := by decide

end Sys2Proof.Tests
end

namespace Sys2Proof.Machine

/-! ## Memory under the operations of the units

Only `State.writeMem` changes the memory. One lemma for each operation says so, and the operations that do
write keep the canonical form. -/

/-! ### Words handed on, events and causes -/

section
variable (s : State)

@[simp] theorem handWord_mem (a v : Word) : (handWord a v s).mem = s.mem := rfl
@[simp] theorem refreshWord_mem (a : Word) (view : State → Word) (before : State) :
    (refreshWord a view before s).mem = s.mem := by rw [(refreshWord_reports a view before s).frame]
@[simp] theorem latchCause_mem (c : Cause) : (latchCause c s).mem = s.mem := rfl
@[simp] theorem clearCauses_mem (b : BitVec 8) : (clearCauses b s).mem = s.mem := by
  rw [(clearCauses_reports s b).frame]
@[simp] theorem recordEvent_mem (k : EventKind) (w a b : Nat) : (recordEvent k w a b s).mem = s.mem := by
  rw [(recordEvent_reports k w a b s).frame]
@[simp] theorem recordClampNote_mem (o : Owner) (i : Nat) (ob : Bool) (h t : Nat) :
    (recordClampNote o i ob h t s).mem = s.mem := by rw [(recordClampNote_reports o i ob h t s).frame]
@[simp] theorem updMode_mem (f : ModeUnit → ModeUnit) : (updMode f s).mem = s.mem := by rw [updMode_frame]
@[simp] theorem updCommand_mem (f : CommandUnit → CommandUnit) : (updCommand f s).mem = s.mem := by
  rw [updCommand_frame]
@[simp] theorem updProfile_mem (f : ProfileUnit → ProfileUnit) : (updProfile f s).mem = s.mem := by
  rw [updProfile_frame]
@[simp] theorem deriveDryhold_mem : (deriveDryhold s).mem = s.mem := updMode_mem s _
@[simp] theorem writeResult_mem (n : Nat) (r : CommandResult) (a b : Nat) :
    (writeResult n r a b s).mem = s.mem := by simp [writeResult]
@[simp] theorem answer_mem (n : Nat) (r : CommandResult) (a b : Nat) : (answer n r a b s).mem = s.mem := by
  rw [(answer_frame n r a b s).1]
@[simp] theorem showOverrun_mem (b : Bool) : (showOverrun b s).mem = s.mem := by
  unfold showOverrun; split <;> simp

/-- A fold of operations that leave memory alone leaves it alone. -/
theorem foldl_mem {α : Type} {f : State → α → State} (h : ∀ s x, (f s x).mem = s.mem) (l : List α) :
    (l.foldl f s).mem = s.mem := by
  induction l generalizing s with
  | nil => rfl
  | cons x l ih => rw [List.foldl_cons, ih, h]

theorem foldl_handWord_mem (v : Word) (l : List Word) :
    (l.foldl (fun s a => handWord a v s) s).mem = s.mem := foldl_mem s (fun t a => handWord_mem t a v) l

/-- The memory of a choice of states: a refused command and one carried out differ in other units. -/
theorem ite_mem (c : Prop) [Decidable c] (t : State) :
    (if c then s else t).mem = if c then s.mem else t.mem := apply_ite State.mem c s t

/-! ### The queue and the channels -/

@[simp] theorem setStallFlag_mem (b : Bool) : (setStallFlag b s).mem = s.mem := by simp [setStallFlag]
@[simp] theorem ifEmptied_mem (d : Nat) : (ifEmptied d s).mem = s.mem := (ifEmptied_queues d s).mem
@[simp] theorem leaveQueue_mem (i : Nat) : (leaveQueue i s).mem = s.mem := (leaveQueue_queues i s).mem
@[simp] theorem removeEntry_mem (i : Nat) : (removeEntry i s).mem = s.mem := (removeEntry_queues i s).mem
@[simp] theorem putEntry_mem (i v : Nat) (p : Bool) : (putEntry i v p s).mem = s.mem :=
  (putEntry_queues i v p s).mem
@[simp] theorem emptyQueue_mem : (emptyQueue s).mem = s.mem := (emptyQueue_queues s).mem
@[simp] theorem setTarget_mem (i : Nat) : (setTarget i s).mem = s.mem := (setTarget_aims i s).mem
@[simp] theorem reaim_mem (i : Nat) : (reaim i s).mem = s.mem := (reaim_aims i s).mem
@[simp] theorem retarget_mem (i : Nat) : (retarget i s).mem = s.mem := (retarget_aims i s).mem
@[simp] theorem catchUp_mem (i : Nat) : (catchUp i s).mem = s.mem := (catchUp_aims i s).mem
@[simp] theorem reaimInPlace_mem (i : Nat) : (reaimInPlace i s).mem = s.mem := (reaimInPlace_queues i s).mem
@[simp] theorem bandsChanged_mem (l : List Nat) : (bandsChanged l s).mem = s.mem :=
  (bandsChanged_aims l s).mem
@[simp] theorem adoptionPin_mem : (adoptionPin s).mem = s.mem := (adoptionPin_queues s).mem
@[simp] theorem testSettled_mem : (testSettled s).mem = s.mem := (testSettled_settles s).mem
@[simp] theorem websChanged_mem (before : State) : (websChanged before s).mem = s.mem :=
  (websChanged_settles before s).mem
@[simp] theorem enforceEntry_mem : (enforceEntry s).mem = s.mem := (enforceEntry_settles s).mem
@[simp] theorem frozenEntry_mem : (frozenEntry s).mem = s.mem := (frozenEntry_settles s).mem
@[simp] theorem safeEntry_mem : (safeEntry s).mem = s.mem := (safeEntry_settles s).mem
@[simp] theorem observeEntry_mem : (observeEntry s).mem = s.mem := (observeEntry_settles s).mem

/-- What is done to a channel leaves memory alone if it does so to every channel. -/
theorem withChan_mem {i : Nat} {f : Channel → State → State} (h : ∀ c, (f c s).mem = s.mem) :
    (withChan i f s).mem = s.mem :=
  withChan_rel (R := fun s t => t.mem = s.mem) (fun _ => rfl) fun c _ => h c

/-- What leaves memory alone for each channel of a list leaves it alone for the list. -/
theorem forEach_mem {f : Nat → State → State} (h : ∀ i s, (f i s).mem = s.mem) (ids : List Nat) :
    (forEach ids f s).mem = s.mem :=
  foldl_mem s (fun s i => h i s) ids

@[simp] theorem deriveFollower_mem (v : Nat) (l : Link) : (deriveFollower v l s).mem = s.mem := by
  unfold deriveFollower
  rw [retarget_mem]
  exact withChan_mem s fun _ => updChan_mem ..
@[simp] theorem deriveFollowers_mem (i v : Nat) : (deriveFollowers i v s).mem = s.mem :=
  foldl_mem s (fun s l => deriveFollower_mem s v l) _
@[simp] theorem landValue_mem (i v : Nat) (b : Bool) : (landValue i v b s).mem = s.mem :=
  withChan_mem s fun c => by dsimp only; split <;> simp
@[simp] theorem landLateWrite_mem (i v : Nat) : (landLateWrite i v s).mem = s.mem := by
  refine withChan_mem s fun c => ?_
  extract_lets u v w
  have hv : v.mem = s.mem := by simp [v, u]
  have hw : w.mem = s.mem := by
    rw [← hv]
    show (ite _ _ _ : State).mem = _
    split
    · exact withChan_mem _ fun d => by split <;> simp
    · rfl
  split <;> simp [hw]

/-! ### The ruling on a host write -/

@[simp] theorem compareNote_mem (i v : Nat) : (compareNote i v s).mem = s.mem :=
  withChan_mem s fun c => by simp [ite_mem]
@[simp] theorem countAbsorbed_mem : (countAbsorbed s).mem = s.mem := by rw [countAbsorbed_frame]
@[simp] theorem absorbWrite_mem (i v : Nat) (r : AbsorbReason) : (absorbWrite i v r s).mem = s.mem :=
  withChan_mem s fun c => by dsimp only; split <;> simp
@[simp] theorem setRequest_mem (i v : Nat) : (setRequest i v s).mem = s.mem :=
  withChan_mem s fun c => by split <;> simp
@[simp] theorem rangeEvent_mem (i v : Nat) : (rangeEvent i v s).mem = s.mem :=
  withChan_mem s fun c => by split <;> simp
@[simp] theorem ruleFollowed_mem (i v : Nat) : (ruleFollowed i v s).1.mem = s.mem := by
  have h : (clearAbsorb i (compareNote i v (setRequest i v s))).mem = s.mem := by simp [clearAbsorb]
  unfold ruleFollowed
  dsimp only
  split
  · exact h
  · split
    · rw [← h]; simp [startFlight]
    · rw [← h]; simp
@[simp] theorem ruleHostWrite_mem (i v : Nat) : (ruleHostWrite i v s).1.mem = s.mem := by
  unfold ruleHostWrite ruleObserve
  split
  · rfl
  · dsimp only
    split
    · simp
    · simp [startFlight, clearAbsorb]
    · split
      · simp
      · split <;> simp
    · simp
    · simp
@[simp] theorem clearNotes_mem : (clearNotes s).mem = s.mem := forEach_mem s (fun _ _ => updChan_mem ..) _

end
end Sys2Proof.Machine

namespace Sys2Proof.Machine

/-! ### The speed unit -/

section
variable (s : State)

@[simp] theorem updSpeed_mem (f : SpeedUnit → SpeedUnit) : (updSpeed f s).mem = s.mem := by simp [updSpeed]
@[simp] theorem sourceRule_mem : (sourceRule s).mem = s.mem := by
  unfold sourceRule
  split
  · rfl
  · split <;> simp
@[simp] theorem handBands_mem (l : List Nat) : (handBands l s).mem = s.mem :=
  foldl_mem s (fun t c => handWord_mem t (bandWordAddr c) (t.bandWord c)) l
@[simp] theorem enterUnknown_mem : (enterUnknown s).mem = s.mem := by simp [enterUnknown]
@[simp] theorem selectBands_mem (v : Nat) : (selectBands v s).mem = s.mem := by
  unfold selectBands
  dsimp only
  split <;> simp
@[simp] theorem measureGate_mem (x : Source) : (measureGate x s).mem = s.mem := by
  unfold measureGate
  dsimp only
  split <;> simp
@[simp] theorem endGate_mem : (endGate s).mem = s.mem := by
  unfold endGate restartGate
  split
  · rfl
  · split <;> simp
@[simp] theorem pulse_mem (x : Source) : (pulse x s).mem = s.mem := by
  unfold pulse
  split
  · dsimp only; split <;> simp
  · rfl
@[simp] theorem expireSilence_mem (x : Source) : (expireSilence x s).mem = s.mem := by
  unfold expireSilence fallSilent
  split
  · rfl
  · split
    · dsimp only; split <;> simp
    · rfl

/-! ### The webs -/

@[simp] theorem updSeq_mem (w : WebId) (f : Sequencer → Sequencer) : (updSeq w f s).mem = s.mem := by
  rw [updSeq_frame]
@[simp] theorem recordWebState_mem (w : WebId) (a b : WebState) : (recordWebState w a b s).mem = s.mem :=
  recordEvent_mem s ..
@[simp] theorem startSplice_mem (w : WebId) (b : Bool) : (startSplice w b s).mem = s.mem := by
  simp [startSplice]
@[simp] theorem takeBreak_mem (w : WebId) (b : Bool) : (takeBreak w b s).mem = s.mem := by simp [takeBreak]
@[simp] theorem leaveSplice_mem (w : WebId) : (leaveSplice w s).mem = s.mem := by
  unfold leaveSplice
  split
  · simp
  · dsimp only; split <;> simp
@[simp] theorem releaseSplice_mem (w : WebId) : (releaseSplice w s).mem = s.mem := by simp [releaseSplice]
@[simp] theorem expireSplice_mem (w : WebId) : (expireSplice w s).mem = s.mem := by simp [expireSplice]
@[simp] theorem breakAsserted_mem (w : WebId) : (breakAsserted w s).mem = s.mem := by
  unfold breakAsserted; split <;> simp
@[simp] theorem spliceAsserted_mem (w : WebId) : (spliceAsserted w s).mem = s.mem := by
  unfold spliceAsserted; split <;> simp
@[simp] theorem spliceNegated_mem (w : WebId) : (spliceNegated w s).mem = s.mem := by
  unfold spliceNegated; split <;> simp
@[simp] theorem runWeb_mem (w : WebId) : (runWeb w s).mem = s.mem := by
  unfold runWeb; dsimp only; split <;> simp
@[simp] theorem disableWeb_mem (w : WebId) : (disableWeb w s).mem = s.mem := by
  unfold disableWeb; split <;> simp
@[simp] theorem carryOutWeb_mem (w : WebId) (n : Nat) : (carryOutWeb w n s).mem = s.mem := by
  unfold carryOutWeb; split <;> simp [enableWeb, rearmWeb]
@[simp] theorem takeWebField_mem (w : WebId) (n : Nat) : (takeWebField w n s).1.mem = s.mem := by
  unfold takeWebField
  split
  · rfl
  · split <;> simp
@[simp] theorem setWebResults_mem (u l : WebResult) : (setWebResults u l s).mem = s.mem := rfl
@[simp] theorem takeWebCommand_mem (v : Word) : (takeWebCommand v s).mem = s.mem := by
  unfold takeWebCommand; dsimp only; split <;> simp
@[simp] theorem releaseTrip_mem (w : WebId) : (releaseTrip w s).mem = s.mem := by simp [releaseTrip]

/-! ### The modes -/

@[simp] theorem becomeSafe_mem (b : Bool) : (becomeSafe b s).mem = s.mem := by simp [becomeSafe]
@[simp] theorem recordSafeStand_mem (m : Mode) : (recordSafeStand m s).mem = s.mem := recordEvent_mem s ..
@[simp] theorem estopAtEnforce_mem (b : Bool) : (estopAtEnforce b s).mem = s.mem := by
  unfold estopAtEnforce; split <;> simp
@[simp] theorem estopAsserted_mem : (estopAsserted s).mem = s.mem := by
  unfold estopAsserted; dsimp only; split <;> simp
@[simp] theorem estopNegated_mem : (estopNegated s).mem = s.mem := by simp [estopNegated]
@[simp] theorem takeLiveness_mem (v : Word) : (takeLiveness v s).mem = s.mem := by
  unfold takeLiveness; dsimp only; split <;> simp
@[simp] theorem addLiveness_mem : (addLiveness s).mem = s.mem := by simp [addLiveness]
@[simp] theorem expireInEnforce_mem : (expireInEnforce s).mem = s.mem := by
  unfold expireInEnforce; dsimp only; split <;> simp
@[simp] theorem expireLiveness_mem : (expireLiveness s).mem = s.mem := by
  unfold expireLiveness
  split
  · rfl
  · split
    · split <;> simp
    · split <;> simp
    · split <;> simp
    · rfl
    · rfl
@[simp] theorem rampTick_mem : (rampTick s).mem = s.mem := by
  unfold rampTick
  dsimp only
  split
  · exact forEach_mem _ (fun i t => (tickChannel_queues i t).mem) _
  · rfl
@[simp] theorem scanStall_mem : (scanStall s).mem = s.mem := by simp [scanStall]

/-! ### The qualified inputs -/

@[simp] theorem reachOwner_mem (l : InputLine) (b : Bool) : (reachOwner l b s).mem = s.mem := by
  unfold reachOwner
  split <;> simp [ite_mem]
@[simp] theorem takeQualified_mem (l : InputLine) (b : Bool) : (takeQualified l b s).mem = s.mem := by
  unfold takeQualified
  split
  · simp [qualifiedChange, handInputs]
  · rfl
@[simp] theorem checkQualifiers_mem : (checkQualifiers s).mem = s.mem :=
  foldl_mem s (fun s l => by split <;> simp [ite_mem]) inputLines
@[simp] theorem endSequence_mem : (endSequence s).mem = s.mem := updCommand_mem s _

/-! ### The profile unit -/

@[simp] theorem takeProfile_mem (p : Profile) (b : Bool) (l : List (Option Nat)) :
    (takeProfile p b l s).mem = s.mem := by
  unfold takeProfile
  extract_lets
  rw [updMode_mem]
  rfl
@[simp] theorem handWords_mem (ws : List (Word × (State → Word))) : (handWords ws s).mem = s.mem :=
  foldl_mem s (fun t (w : Word × (State → Word)) => handWord_mem t w.1 (w.2 t)) ws
@[simp] theorem completeAdoption_mem (b : Bool) (p : Profile) (l : List (Option Nat)) :
    (completeAdoption b p l s).mem = s.mem := by
  unfold completeAdoption
  extract_lets u v w x y z a
  have hw : w.mem = s.mem := by
    show (ite _ _ _ : State).mem = _
    split <;> simp [u, v]
  simp [a, z, y, x, hw]
@[simp] theorem rejectAdoption_mem (r : RejectReason) (d : Nat) : (rejectAdoption r d s).mem = s.mem := by
  simp [rejectAdoption]
@[simp] theorem captureFrom_mem (b : Bool) (p : Profile) (i : Nat) (l : List (Option Nat)) :
    (captureFrom b p i l s).mem = s.mem := by
  unfold captureFrom; split <;> simp
@[simp] theorem adoptionRead_mem (v : Word) : (adoptionRead v s).mem = s.mem := by
  unfold adoptionRead checkAdoption
  split
  · dsimp only
    split
    · split <;> simp
    · rfl
  all_goals rfl
@[simp] theorem captureRead_mem (i : Nat) (v : Word) : (captureRead i v s).mem = s.mem := by
  unfold captureRead; split <;> simp
@[simp] theorem followCapture_mem (a v : Word) : (followCapture a v s).mem = s.mem := by
  unfold followCapture
  split
  · split
    · split <;> simp
    · rfl
  all_goals rfl

/-! ### The commands -/

@[simp] theorem takeAdopt_mem (b : Bool) : (takeAdopt b s).mem = s.mem := by
  simp [takeAdopt, ite_mem]
@[simp] theorem dropProfile_mem : (dropProfile s).mem = s.mem := by
  unfold dropProfile
  extract_lets
  rw [updMode_mem]
  rfl
@[simp] theorem takeDiscard_mem (b : Bool) : (takeDiscard b s).mem = s.mem := by
  simp [takeDiscard, carryOutDiscard, ite_mem]
@[simp] theorem takeLock_mem (b : Bool) : (takeLock b s).mem = s.mem := by
  unfold takeLock; split <;> simp
@[simp] theorem carryOutSetMode_mem (b : Bool) : (carryOutSetMode b s).mem = s.mem := by
  unfold carryOutSetMode; dsimp only; split <;> simp
@[simp] theorem takeSetMode_mem (b : Bool) : (takeSetMode b s).mem = s.mem := by
  simp [takeSetMode, ite_mem]
@[simp] theorem takeRecover_mem (b : Bool) : (takeRecover b s).mem = s.mem := by
  simp [takeRecover, carryOutRecover, ite_mem]
@[simp] theorem takeClearDeltas_mem (b : Bool) : (takeClearDeltas b s).mem = s.mem := by
  simp [takeClearDeltas, handInputs]
@[simp] theorem takeClearNotes_mem (b : Bool) : (takeClearNotes b s).mem = s.mem := by simp [takeClearNotes]
@[simp] theorem takeSelfTest_mem (b : Bool) : (takeSelfTest b s).mem = s.mem := by
  unfold takeSelfTest beginTest; split <;> simp
@[simp] theorem placeStatus_mem : (placeStatus s).mem = s.mem := by
  rw [placeStatus, handWord_mem, handWord_mem, State.onReport_mem, foldl_handWord_mem]
  simp only [handWord_mem, State.onWeb_mem]
@[simp] theorem overtakeTest_mem : (overtakeTest s).mem = s.mem := by unfold overtakeTest; split <;> rfl
@[simp] theorem takeRestart_mem : (takeRestart s).mem = s.mem := by
  simp [takeRestart, readStraps, beginRestart]
@[simp] theorem endRestart_mem : (endRestart s).mem = s.mem := by simp [endRestart]
@[simp] theorem runCommand_mem (n : Nat) (b : Bool) : (runCommand n b s).mem = s.mem := by
  unfold runCommand; split <;> simp
@[simp] theorem missCommand_mem : (missCommand s).mem = s.mem := updCommand_mem s _
@[simp] theorem takeCommand_mem (n : Nat) : (takeCommand n s).mem = s.mem := by
  unfold takeCommand
  split
  · rfl
  · split
    · simp
    · split <;> simp
@[simp] theorem startUp_mem : (startUp s).mem = s.mem := by simp [startUp, beginTest]
@[simp] theorem finishTest_mem (f : StoreFlags) : (finishTest f s).mem = s.mem := by simp [finishTest]
@[simp] theorem finishStartUp_mem : (finishStartUp s).mem = s.mem := by simp [finishStartUp, readStraps]
@[simp] theorem finishSelfTest_mem : (finishSelfTest s).mem = s.mem := by simp [finishSelfTest]

end
end Sys2Proof.Machine

namespace Sys2Proof.Machine

/-! ### The path unit and the port -/

section
variable (s : State)

@[simp] theorem takeAcknowledge_mem (v : Word) : (takeAcknowledge v s).mem = s.mem := by
  unfold takeAcknowledge; dsimp only; split <;> simp
@[simp] theorem handControl_mem (a v : Word) : (handControl a v s).mem = s.mem := by
  unfold handControl
  split <;> simp [takeMask, takeReadIndex]
@[simp] theorem blockWrite_mem (a : Word) : (blockWrite a s).mem = s.mem := by rw [blockWrite_frame]
@[simp] theorem beginAccess_mem (r : HostRequest) : (beginAccess r s).1.mem = s.mem := by
  unfold beginAccess
  split
  · rfl
  · split <;> simp
@[simp] theorem summaryRead_mem (v : Word) : (summaryRead v s).mem = s.mem := by
  unfold summaryRead; split <;> simp
@[simp] theorem grant_mem (x : Side) (p : Option PortAccess) : (grant x p s).mem = s.mem := rfl
@[simp] theorem grantGuard_mem (p : PortAccess) : (grantGuard p s).mem = s.mem := by
  rw [(grantGuard_granted p s).1]
@[simp] theorem startHeld_mem : (startHeld s).mem = s.mem := by
  unfold startHeld; split <;> simp
@[simp] theorem joinRead_mem (r : Option Word) : (joinRead r s).mem = s.mem := by
  unfold joinRead; split <;> rfl
@[simp] theorem landImposed_mem (i : Nat) (v : Word) : (landImposed i v s).mem = s.mem := by
  unfold landImposed; dsimp only; split <;> simp
@[simp] theorem ringLanded_mem : (ringLanded s).mem = s.mem := by
  unfold ringLanded recordLanded
  split
  · rfl
  · split
    · rfl
    · dsimp only; split <;> simp

end

/-! ### The canonical form -/

/-- The access stores one word, or none. -/
theorem completeAccess_mem (a : HostAccess) (s : State) : (completeAccess a s).mem =
    if a.isRead then s.mem else (s.writeMem a.addr a.value).mem := by
  unfold completeAccess
  split
  · dsimp only; split <;> simp
  · dsimp only
    split
    · rfl
    · split
      · rfl
      · rfl
      · simp
      · split <;> simp
      · split <;> simp

section
variable {s : State} (h : s.mem.wf)
include h

theorem completeAccess_wf (a : HostAccess) : (completeAccess a s).mem.wf := by
  rw [completeAccess_mem]
  split
  · exact h
  · exact s.wf_writeMem _ _ h

theorem grantHost_wf (a : HostAccess) : (grantHost a s).mem.wf := by
  unfold grantHost
  split
  · exact completeAccess_wf (s := (grant .host none s).onPath _) h a
  · exact h

theorem submit_wf (a : HostAccess) : (submit a s).mem.wf := by
  unfold submit
  split
  · split
    · exact grantHost_wf h a
    · exact completeAccess_wf (s := grant .host none s) h a
  · exact h

theorem hostAccess_wf (r : HostRequest) : (hostAccess r s).mem.wf := by
  have hb : (beginAccess r s).1.mem.wf := by rwa [beginAccess_mem]
  unfold hostAccess
  split
  · exact h
  · split
    · next e => rwa [e] at hb
    · next a e => rw [e] at hb; exact submit_wf hb a

theorem arbitrate_wf : (arbitrate s).mem.wf := by
  unfold arbitrate
  split
  · exact h
  · split
    · exact grantHost_wf h _
    · split
      · exact grantHost_wf h _
      · rwa [grantGuard_mem]
    · rwa [grantGuard_mem]
    · exact h

/-- Every command keeps the canonical form: the host's accesses and the landings of the guard's writes store
words, and every other command leaves memory alone. -/
theorem exec_wf {i : Instr} {t : State} (ht : exec i s = .next t) : t.mem.wf := by
  have landed : ∀ a v, ((freePort s).writeMem a v).mem.wf := fun a v => (freePort s).wf_writeMem a v h
  cases hw : i.write with
  | some w =>
    rw [exec_write (addr := w.1) (v := w.2) hw s] at ht
    cases ht
    exact hostAccess_wf h _
  | none =>
    cases i <;> simp only [Instr.write, reduceCtorEq] at hw <;> injection ht with ht <;> subst t
    case hostWriteCompletion =>
      split
      · exact completeAccess_wf (s := (freePort s).onPath _) h _
      · exact h
    case attentionSummaryRead => exact hostAccess_wf h _
    case portGrant read => exact arbitrate_wf (by simpa using h)
    case imposedWriteCompletion =>
      split
      · dsimp only
        split
        · rw [landImposed_mem]; exact landed _ _
        · exact landed _ _
      · exact h
    case ringWriteCompletion =>
      split
      · dsimp only
        split
        · rw [ringLanded_mem]; exact landed _ _
        · exact landed _ _
      · exact h
    case mirrorWriteCompletion =>
      split
      · dsimp only
        split <;> exact landed _ _
      · exact h
    case adoptionReadCompletion =>
      split
      · dsimp only
        split
        · rwa [adoptionRead_mem]
        · exact h
      · exact h
    case captureReadCompletion =>
      split
      · dsimp only
        split
        · rwa [captureRead_mem]
        · exact h
      · exact h
    case selfTestDone f =>
      split
      · simpa using h
      · simpa using h
      all_goals exact h
    case resetAssert | gapAssert | gapNegate | qualifierStart => exact h
    case livenessExpired => rwa [expireLiveness_mem]
    case tachPulse => rwa [pulse_mem]
    case silence => rwa [expireSilence_mem]
    case breakQualifiedAssertion | breakQualifiedNegation | spliceQualifiedAssertion
      | spliceQualifiedNegation | estopQualifiedAssertion | estopQualifiedNegation => rwa [takeQualified_mem]
    all_goals
      split
      · simpa using h
      · exact h

theorem idleStep_wf : (idleStep s).mem.wf := by
  unfold idleStep
  split
  · rwa [endRestart_mem]
  · exact h

theorem stores_writeMem (addr v : Word) : Stores addr v s (s.writeMem addr v) := by
  refine ⟨?_, fun a ha => ?_⟩
  · rw [State.readMem_writeMem _ _ _ h, if_pos rfl]
  · rw [State.readMem_writeMem _ _ _ h, if_neg ha]

end

/-- Settles O3: a word written reads back (`stores_writeMem`), and the step runs a command (`exec_wf`) or
idles (`idleStep_wf`), each of which keeps the canonical form. -/
theorem stepKeepsMemoryCanonical : Obligations.StepKeepsMemoryCanonical := by
  refine ⟨fun s addr v h => stores_writeMem h addr v, fun s t h ht => ?_⟩
  unfold step at ht
  split at ht
  · cases ht
    exact idleStep_wf h
  · next c rest _ => exact exec_wf (s := { s with pending := rest }) h ht

end Sys2Proof.Machine

namespace Sys2Proof.Machine

/-! ## Hardware reset

Under reset there are no channels, no queue and no lists, so a law about their members has none to hold of;
the rest of each law is read off the initial values. -/

theorem webLaw_reset : WebLaw State.reset ∧ SettledLaw State.reset := by
  have h : Sequencer.initial.Lawful 0 := by simp [Sequencer.Lawful, Sequencer.initial]
  exact ⟨⟨h, h⟩, rfl, rfl⟩

theorem speedLaw_reset : SpeedLaw State.reset :=
  ⟨rfl, rfl, Nat.zero_le _, fun _ => ⟨rfl, nofun⟩, nofun⟩

theorem modeLaws_reset : EstopLaw State.reset ∧ ModeLaw State.reset ∧ DryholdLaw State.reset := by decide

theorem reportLaws_reset : AttnLaw State.reset ∧ MirrorLaw State.reset := by decide

theorem queueLaws_reset : QueueLaw State.reset ∧ QuietLaw State.reset ∧ StallLaw State.reset := by decide

theorem unprofiledLaws_reset : UnprofiledLaw State.reset ∧ LowerWebLaw State.reset := by decide

theorem wordLaw_reset : WordLaw State.reset := by
  refine ⟨fun h => absurd rfl h, by decide, by decide, ⟨rfl, nofun⟩, by decide, fun _ => rfl, trivial,
    ⟨by decide, nofun⟩, ?_⟩
  exact ⟨nofun, nofun, trivial⟩

theorem guardLaw_reset : GuardLaw State.reset :=
  ⟨fun h => absurd rfl h, trivial, nofun, nofun, nofun, trivial⟩

/-- Settles O2: the values are those of `State.reset`, and each law holds there by the lemma of its unit. -/
theorem resetHoldsTheStatedValues : Obligations.ResetHoldsTheStatedValues := by
  obtain ⟨web, settled⟩ := webLaw_reset
  obtain ⟨estop, mode, dryhold⟩ := modeLaws_reset
  obtain ⟨attn, mirror⟩ := reportLaws_reset
  obtain ⟨queue, quiet, stall⟩ := queueLaws_reset
  obtain ⟨unprofiled, lower⟩ := unprofiledLaws_reset
  have target : TargetLaw State.reset := fun _ hc => absurd hc List.not_mem_nil
  have aim : AimLaw State.reset := fun _ he => absurd he List.not_mem_nil
  have wf : State.reset.mem.wf := by decide
  exact ⟨rfl, rfl, rfl, rfl, rfl, rfl, rfl, rfl, rfl, rfl, rfl, rfl, rfl, rfl, rfl, rfl, rfl, rfl, rfl, rfl,
    rfl, rfl, rfl, rfl, rfl, rfl, rfl, rfl, rfl, rfl, rfl, rfl, rfl, rfl, rfl, rfl, rfl,
    wf, web, settled, speedLaw_reset, estop, mode, dryhold,
    attn, queue, quiet, stall, mirror, unprofiled, lower, target, aim, wordLaw_reset, guardLaw_reset⟩

/-! ## RESET_ASSERT and TIMESTAMP_TICK -/

/-- Settles O59: `assertReset` writes the initial value of each unit, and `execTimestampTick` splits on the
RESET line. -/
theorem resetClearsAndTimeCounts : Obligations.ResetClearsAndTimeCounts := by
  refine fun s => ⟨⟨assertReset s, rfl, rfl⟩, fun h => ⟨_, rfl, ?_⟩, fun h => ⟨_, rfl, ?_⟩⟩
  · rw [if_neg (by simp [h])]; rfl
  · rw [if_pos h]

/-! ## What the guard offers -/

/-- An imposed write is offered while GAP is asserted, the oldest waiting entry first. -/
theorem imposedOffer_eq_some {s : State} {e : QueueEntry} {c : Channel} (hg : s.pins.gap = true)
    (he : s.ramp.queue.find? (fun e => !e.granted) = some e) (hc : s.chanAt e.channel = some c) :
    imposedOffer s = some (.imposed e.channel c.cfg.addr (wordOf e.value) true) := by
  simp [imposedOffer, hg, he, hc]

theorem imposedOffer_eq_none {s : State}
    (h : s.pins.gap = false ∨ s.ramp.queue.find? (fun e => !e.granted) = none) : imposedOffer s = none := by
  rcases h with h | h <;> simp [imposedOffer, h]

/-- The words of a record, by the index of the next one due. -/
theorem word_of_getElem {r : RingRecord} {k : Nat} {w : Word}
    (h : [r.word0, r.word1, r.word2, r.word3][k]? = some w) : r.word k = w := by
  match k, h with
  | 0, h => exact Option.some.inj h
  | 1, h => exact Option.some.inj h
  | 2, h => exact Option.some.inj h
  | 3, h => exact Option.some.inj h

theorem ringOffer_cons {s : State} {r : RingRecord} {rest : List RingRecord} (h : s.report.ring = r :: rest) :
    ringOffer s = some (.ring (ringAddr r.slot r.done) (r.word r.done) true) := by simp [ringOffer, h]

theorem ringOffer_nil {s : State} (h : s.report.ring = []) : ringOffer s = none := by simp [ringOffer, h]

theorem guardOffer_held {s : State} (h : s.pins.resetHeld = true) : guardOffer s = none := by
  simp [guardOffer, h]

/-- RESET not held: the first of the four offers. -/
theorem guardOffer_eq {s : State} (h : s.pins.resetHeld = false) :
    guardOffer s = (imposedOffer s).or ((ringOffer s).or ((mirrorOffer s).or (readOffer s))) := by
  simp [guardOffer, h]

/-- Settles O15: each clause makes the offers before its own `none`. -/
theorem guardOffersInOrder : Obligations.GuardOffersInOrder := by
  refine ⟨fun s => guardOffer_held, fun s e c hr hg he hc => ?_, fun s hr hi => ?_,
    fun s => ⟨_, rfl, rfl⟩, fun s => ⟨_, rfl, rfl⟩⟩
  · rw [guardOffer_eq hr, imposedOffer_eq_some hg he hc, Option.some_or]
  · rw [guardOffer_eq hr, imposedOffer_eq_none hi, Option.none_or]
    refine ⟨fun r rest w hring hw => ?_, fun hring => ?_⟩
    · rw [ringOffer_cons hring, Option.some_or, word_of_getElem hw]
      rfl
    · rw [ringOffer_nil hring, Option.none_or]
      refine ⟨fun e he => by simp [mirrorOffer, he], fun hm => ?_⟩
      have hmirror : mirrorOffer s = none := by simp [mirrorOffer, hm]
      rw [hmirror, Option.none_or]
      exact ⟨fun _ _ _ ha => by simp [readOffer, ha], fun _ _ _ _ _ ha hp => by simp [readOffer, ha, hp],
        fun ha => by simp [readOffer, ha]⟩

/-! ## Host writes that are performed at once -/

/-- A row that is a write of the host gives what the host's write of its word gives. -/
theorem gives_write {i : Instr} {addr v : Word} {s : State} {P : State → Prop}
    (h : i.write = some (addr, v)) (hp : P (hostWrite addr v s)) : Gives i s P := ⟨_, exec_write h s, hp⟩

/-- Settles O19, by `hostWrite_transparent`. -/
theorem heldResetIsTransparent : Obligations.HeldResetIsTransparent := by
  refine fun i s addr v hw hm hr hf => gives_write hw ?_
  rw [hostWrite_transparent hf hr]
  exact ⟨rfl, stores_writeMem hm addr v⟩

/-! ### Plain writes (R10, R152) -/

/-- A plain write that wins the port is stored, and an adoption's capture pass is told. -/
theorem hostWrite_plain {addr v : Word} {s : State} (hf : HostFree s) (hr : s.pins.resetHeld = false)
    (ha : 0x0200 ≤ addr.toNat)
    (hg : addr.toNat ≤ 0x06FF →
      s.mode.mode = .unprofiled ∧ s.profile.adoption = .idle ∧ s.profile.lock = false)
    (hc : s.channelAt addr = none) :
    hostWrite addr v s = followCapture addr v ((s.onArbiter fun _ => ⟨.host, none⟩).writeMem addr v) := by
  obtain ⟨host, held, port, wins⟩ := hf
  have hc' : ((s.onArbiter fun _ => ⟨.host, none⟩).writeMem addr v).channelAt addr = none := hc
  rw [hostWrite_begins ⟨host, held⟩, classify_plain hr ha hg hc]
  dsimp only
  rw [submit_completes (by simp) port wins]
  simp [completeAccess, hr, hc']

/-- A write to no word already captured tells the capture pass nothing. -/
theorem followCapture_same {addr v : Word} {s : State}
    (h : ∀ e p k l, s.profile.adoption = .capturing e p k l →
      ∀ j, p.entries.findIdx? (fun e => e.enabled && decide (e.addr = addr)) = some j →
        l.getD j none = none) : followCapture addr v s = s := by
  unfold followCapture
  split
  · next e p k l ha =>
    split
    · next j hj => rw [h e p k l ha j hj]; rfl
    · rfl
  all_goals rfl

/-- A write to the word of a channel already captured sets its captured value. -/
theorem followCapture_captured {addr v : Word} {s : State} {enforce : Bool} {p : Profile} {k j x : Nat}
    {l : List (Option Nat)} (ha : s.profile.adoption = .capturing enforce p k l)
    (hj : p.entries.findIdx? (fun e => e.enabled && decide (e.addr = addr)) = some j)
    (hx : l[j]? = some (some x)) :
    followCapture addr v s = s.onProfile fun u =>
      { u with adoption := .capturing enforce p k (l.set j (some v.toNat)) } := by
  have hd : (l.getD j none).isSome = true := by simp [List.getD_eq_getElem?_getD, hx]
  simp only [followCapture, ha, hj, hd, if_true]

/-- Settles O22: the write completes at once, and `followCapture` splits on the capture pass. -/
theorem plainWriteOnlyStores : Obligations.PlainWriteOnlyStores := by
  intro s addr v hm hf hr ha hg hc
  have hstores := stores_writeMem hm addr v
  refine ⟨fun h => gives_write rfl ?_, fun enforce p k l j x h hj hx => gives_write rfl ?_⟩ <;>
    rw [hostWrite_plain hf hr ha hg hc]
  · rw [followCapture_same (by exact h)]
    exact ⟨rfl, hstores⟩
  · rw [followCapture_captured (by exact h) hj hx]
    exact ⟨rfl, hstores⟩

/-! ### Control words with no command (R6, R7, R160, R171) -/

/-- A control word with no row of its own sets argument 1, the acknowledge mode, or nothing. -/
theorem handControl_other {addr v : Word} (h : isOtherControlWrite addr v = true) (s : State) :
    handControl addr v s = { s with
      command := if addr = 1 then { s.command with arg1 := v } else s.command
      report := if addr = 7 then { s.report with ackMode := v } else s.report } := by
  have toNat_eq : ∀ n : Nat, n < 65536 → (addr = wordOf n ↔ addr.toNat = n) := fun n hn => by
    rw [← BitVec.toNat_inj, BitVec.toNat_ofNat, Nat.mod_eq_of_lt hn]
  have h0 : addr = 0 ↔ addr.toNat = 0 := toNat_eq 0 (by omega)
  have h1 : addr = 1 ↔ addr.toNat = 1 := toNat_eq 1 (by omega)
  have h7 : addr = 7 ↔ addr.toNat = 7 := toNat_eq 7 (by omega)
  simp only [isOtherControlWrite, Bool.and_eq_true, Bool.not_eq_true', Bool.or_eq_true, bne_iff_ne, ne_eq,
    beq_iff_eq, List.contains_cons, List.contains_nil, Bool.or_false, Bool.or_eq_false_iff,
    beq_eq_false_iff_ne] at h
  obtain ⟨⟨-, n4, n5, n6, n8, n9⟩, hv⟩ := h
  simp only [h1, h7]
  unfold handControl
  split <;> try contradiction
  · next e =>
    have : v = 0 := hv.resolve_left fun n => n (h0.mpr e)
    simp [e, this, takeCommand]
  · next e => simp only [e]; rfl
  · next e => simp only [e]; rfl
  · next n0 n1 _ _ _ n7 _ _ => rw [if_neg n1, if_neg n7]

/-- The read index taken leaves what waits for other words, and for its own word only a granted entry with
no newer value. -/
theorem mirrorDrop_waiting {a b : Word} (h : a ≠ b) (l : List MirrorEntry) :
    ((mirrorDrop b l).find? fun e => decide (e.addr = a)).map MirrorEntry.newest =
      (l.find? fun e => decide (e.addr = a)).map MirrorEntry.newest := by
  induction l with
  | nil => rfl
  | cons e l ih =>
    by_cases ha : e.addr = a
    · have hb : e.addr ≠ b := ha ▸ h
      simp [mirrorDrop, ha, h]
    · unfold mirrorDrop at ih ⊢
      rw [List.filter_cons]
      split
      · rw [List.map_cons, List.find?_cons_of_neg, List.find?_cons_of_neg, ih]
        · simpa using ha
        · split <;> simpa using ha
      · rw [List.find?_cons_of_neg, ih]
        simpa using ha

theorem mirrorDrop_own {b : Word} {l : List MirrorEntry} {e : MirrorEntry} (he : e ∈ mirrorDrop b l)
    (ha : e.addr = b) : e.granted = true ∧ e.newer = none := by
  obtain ⟨d, hd, rfl⟩ := List.mem_map.mp he
  have hd := (List.mem_filter.mp hd).2
  by_cases hb : d.addr = b
  · simp only [hb, if_true]
    simpa [hb] using hd
  · simp [hb] at ha

/-- Settles O24: each word is performed as a control write (`hostWrite_control`) and handed to its unit. -/
theorem controlWordsSetTheirCopies : Obligations.ControlWordsSetTheirCopies := by
  intro s addr v hm hf hr
  refine ⟨fun h hbusy => gives_write rfl ?_, gives_write rfl ?_, fun hv => gives_write rfl ?_⟩
  · have hmem := h
    simp only [isOtherControlWrite, Bool.and_eq_true, decide_eq_true_eq] at hmem
    obtain ⟨⟨ha, hn⟩, -⟩ := hmem
    have h9 : addr = 9 → v.toNat ≤ 63 := by rintro rfl; simp at hn
    rw [hostWrite_control hf hr ha (fun e => .inl (hbusy e)) h9, handControl_other h]
    exact ⟨rfl, stores_writeMem hm addr v⟩
  · rw [hostWrite_control hf hr (by decide) (fun e => absurd e (by decide))
      (fun e => absurd e (by decide))]
    exact ⟨rfl, stores_writeMem hm 0x0006 v⟩
  · rw [hostWrite_control hf hr (by decide) (fun e => absurd e (by decide)) (fun _ => hv)]
    refine ⟨rfl, stores_writeMem hm 0x0009 v, fun a ha => ?_, fun e he ha => ?_⟩
    · exact mirrorDrop_waiting ha s.report.mirror
    · exact mirrorDrop_own he ha

end Sys2Proof.Machine

namespace Sys2Proof.Machine

/-! ## Blocked writes (R4, R5, R162) -/

/-- Setting the overrun flag changes word 0x0044. -/
theorem modeWord_overrun_ne {s : State} (h : s.command.overrun = false) :
    s.modeWord ≠ (s.onCommand fun c => { c with overrun := true }).modeWord := by
  have code : s.mode.mode.code ≤ 4 := by cases s.mode.mode <;> decide
  have bit : ∀ b n, bitAt b n ≤ 2 ^ n := fun b n => by cases b <;> simp [bitAt]
  have busy := bit s.busy 4
  have lock := bit s.profile.lock 5
  intro e
  have e := congrArg BitVec.toNat e
  simp only [State.modeWord, wordOf, BitVec.toNat_ofNat, h] at e
  change (s.mode.mode.code + bitAt s.busy 4 + bitAt s.profile.lock 5 + 0) % 65536 =
    (s.mode.mode.code + bitAt s.busy 4 + bitAt s.profile.lock 5 + 64) % 65536 at e
  omega

/-- A missed command hands on word 0x0044 when it sets the overrun flag, and no other word. -/
theorem missCommand_hands {s : State} (h : s.command.overrun = false) :
    Hands 0x0044 (missCommand s).modeWord (missCommand s) := by
  unfold missCommand updCommand
  rcases refreshWord_cases 0x0044 State.modeWord s (s.onCommand fun c => { c with overrun := true })
    with ⟨e, -⟩ | ⟨-, e⟩
  · exact absurd e (modeWord_overrun_ne h)
  · rw [e, Hands, handWord_waiting, if_pos rfl]
    rfl

theorem missCommand_waiting {a : Word} (h : a ≠ 0x0044) (s : State) :
    (missCommand s).report.waiting a = s.report.waiting a := by
  unfold missCommand updCommand
  rcases refreshWord_cases 0x0044 State.modeWord s (s.onCommand fun c => { c with overrun := true })
    with ⟨-, e⟩ | ⟨-, e⟩ <;> rw [e]
  · rfl
  · rw [handWord_waiting, if_neg h]
    rfl

theorem countBlocked_waiting_other {a : Word} (h : a ≠ 0x0052) (s : State) :
    (countBlocked s).report.waiting a = s.report.waiting a := by
  unfold countBlocked
  dsimp only
  split
  · rfl
  · rw [handWord_waiting, if_neg h]
    rfl

theorem countBlocked_modeWord (s : State) : (countBlocked s).modeWord = s.modeWord := by
  rw [countBlocked_frame]
  rfl

/-- The word of the blocked count after a blocked write. -/
theorem blockWrite_waiting_count (addr : Word) (s : State) : (blockWrite addr s).report.waiting 0x0052 =
    if countUp s.path.blocked = s.path.blocked then s.report.waiting 0x0052
    else some (wordOf (countUp s.path.blocked)) := by
  unfold blockWrite
  rw [countBlocked_waiting]
  split
  · rw [missCommand_waiting (by decide), missCommand, updCommand_frame]
    rfl
  · rfl

/-- A blocked write counts, and sets the overrun flag for the command word; nothing else changes. -/
theorem blockWrite_onlyBlocked (addr : Word) (s : State) : OnlyBlocked addr s (blockWrite addr s) := by
  have hpath : (blockWrite addr s).path = { s.path with blocked := countUp s.path.blocked } := by
    rw [blockWrite_frame]
    rfl
  refine ⟨?_, hpath, ?_, ?_, ⟨fun h => ?_, fun h => ?_⟩, ?_, fun a => ?_⟩
  · rw [blockWrite_frame]
  · rw [blockWrite_frame]
  · rw [blockWrite_frame]
  · rw [hpath] at h ⊢
    rw [Hands, blockWrite_waiting_count, if_neg h]
  · rw [hpath] at h
    rw [blockWrite_waiting_count, if_pos h]
  · rintro rfl hov
    unfold blockWrite
    rw [if_pos rfl, Hands, countBlocked_waiting_other (by decide), countBlocked_modeWord]
    exact missCommand_hands hov
  · rw [blockWrite_frame]
    rfl

/-- Settles O21: the class of the write is `blocked`, whoever holds the port. -/
theorem blockedWriteOnlyCounts : Obligations.BlockedWriteOnlyCounts := by
  refine fun i s addr v hw hf hr hb => gives_write hw ?_
  rw [hostWrite_blocked hf (classify_blocked hr hb)]
  exact blockWrite_onlyBlocked addr s

end Sys2Proof.Machine

namespace Sys2Proof.Machine

/-! ## The ruling on a host write does not see the port

The channel unit rules on a channel-word write without reading the path unit or the arbiter (R11), so a
write that waits is ruled on as one that finds the port free. -/

/-- The state with another path unit and another arbiter. -/
def State.withPort (p : PathUnit) (a : ArbiterUnit) (s : State) : State := { s with path := p, arbiter := a }

section
variable (p : PathUnit) (a : ArbiterUnit) (s : State)

@[simp] theorem withPort_chan : (s.withPort p a).chan = s.chan := rfl
@[simp] theorem withPort_ramp : (s.withPort p a).ramp = s.ramp := rfl
@[simp] theorem withPort_mode : (s.withPort p a).mode = s.mode := rfl
@[simp] theorem withPort_report : (s.withPort p a).report = s.report := rfl
@[simp] theorem withPort_chanAt (i : Nat) : (s.withPort p a).chanAt i = s.chanAt i := rfl
@[simp] theorem withPort_gov (c : Channel) : (s.withPort p a).gov c = s.gov c := rfl
@[simp] theorem withPort_queues : (s.withPort p a).queues = s.queues := rfl
@[simp] theorem withPort_entryGranted (i : Nat) : (s.withPort p a).entryGranted i = s.entryGranted i := rfl
@[simp] theorem withPort_onChan (f : ChannelUnit → ChannelUnit) :
    (s.withPort p a).onChan f = (s.onChan f).withPort p a := rfl
@[simp] theorem withPort_onRamp (f : RampUnit → RampUnit) :
    (s.withPort p a).onRamp f = (s.onRamp f).withPort p a := rfl
@[simp] theorem withPort_onReport (f : ReportUnit → ReportUnit) :
    (s.withPort p a).onReport f = (s.onReport f).withPort p a := rfl
@[simp] theorem withPort_onMode (f : ModeUnit → ModeUnit) :
    (s.withPort p a).onMode f = (s.onMode f).withPort p a := rfl
@[simp] theorem withPort_ite (c : Prop) [Decidable c] (t : State) :
    (if c then s else t).withPort p a = if c then s.withPort p a else t.withPort p a :=
  apply_ite (State.withPort p a) c s t

/-! ### Reports -/

@[simp] theorem handWord_withPort (w v : Word) :
    handWord w v (s.withPort p a) = (handWord w v s).withPort p a := rfl

/-- A word whose contents the port does not change is handed on alike. -/
theorem refreshWord_withPort {view : State → Word} (hv : ∀ t : State, view (t.withPort p a) = view t)
    (w : Word) (before : State) :
    refreshWord w view (before.withPort p a) (s.withPort p a) = (refreshWord w view before s).withPort p a := by
  unfold refreshWord
  simp only [hv]
  split <;> rfl

@[simp] theorem appendEvent_withPort (head : Word) (d : List (Word × Word)) :
    appendEvent head d (s.withPort p a) = (appendEvent head d s).withPort p a := by
  simp only [appendEvent, withPort_report, withPort_onReport, handWord_withPort, withPort_ite]
  rfl

@[simp] theorem recordEvent_withPort (k : EventKind) (w x y : Nat) :
    recordEvent k w x y (s.withPort p a) = (recordEvent k w x y s).withPort p a := appendEvent_withPort ..

@[simp] theorem recordClampNote_withPort (o : Owner) (i : Nat) (b : Bool) (h t : Nat) :
    recordClampNote o i b h t (s.withPort p a) = (recordClampNote o i b h t s).withPort p a :=
  appendEvent_withPort ..

@[simp] theorem deriveDryhold_withPort :
    deriveDryhold (s.withPort p a) = (deriveDryhold s).withPort p a := by
  have level : (s.withPort p a).dryholdLevel = s.dryholdLevel := rfl
  simp only [deriveDryhold, updMode, level, withPort_onMode, refreshWord_withPort p a _ (view := State.modeWord)
    (fun _ => rfl), refreshWord_withPort p a _ (view := State.causesWord) (fun _ => rfl)]

/-! ### The queue -/

@[simp] theorem refreshChan_withPort (i : Nat) (before : State) :
    refreshChan i (before.withPort p a) (s.withPort p a) = (refreshChan i before s).withPort p a :=
  refreshWord_withPort p a s (fun _ => rfl) _ before

@[simp] theorem handDepth_withPort : handDepth (s.withPort p a) = (handDepth s).withPort p a := rfl

@[simp] theorem setStallFlag_withPort (b : Bool) :
    setStallFlag b (s.withPort p a) = (setStallFlag b s).withPort p a := by
  simp only [setStallFlag, withPort_onRamp, refreshWord_withPort p a _ (view := State.stallWord) (fun _ => rfl)]

@[simp] theorem queueEmptied_withPort (d : Nat) :
    queueEmptied d (s.withPort p a) = (queueEmptied d s).withPort p a := by
  simp only [queueEmptied, withPort_onRamp, setStallFlag_withPort, recordEvent_withPort,
    deriveDryhold_withPort, withPort_ite]
  rfl

@[simp] theorem ifEmptied_withPort (d : Nat) :
    ifEmptied d (s.withPort p a) = (ifEmptied d s).withPort p a := by simp [ifEmptied]

@[simp] theorem joinQueue_withPort (i v : Nat) (b : Bool) :
    joinQueue i v b (s.withPort p a) = (joinQueue i v b s).withPort p a := by simp [joinQueue]

@[simp] theorem leaveQueue_withPort (i : Nat) :
    leaveQueue i (s.withPort p a) = (leaveQueue i s).withPort p a := by simp [leaveQueue]

@[simp] theorem putEntry_withPort (i v : Nat) (b : Bool) :
    putEntry i v b (s.withPort p a) = (putEntry i v b s).withPort p a := by
  unfold putEntry
  rw [withPort_ramp]
  split <;> simp

@[simp] theorem removeEntry_withPort (i : Nat) :
    removeEntry i (s.withPort p a) = (removeEntry i s).withPort p a := by
  unfold removeEntry
  rw [withPort_ramp]
  split <;> simp

/-! ### The channels -/

/-- What is done to a channel does not see the port if that holds for every channel. -/
theorem withChan_withPort {i : Nat} {f : Channel → State → State}
    (h : ∀ c, f c (s.withPort p a) = (f c s).withPort p a) :
    withChan i f (s.withPort p a) = (withChan i f s).withPort p a := by
  unfold withChan
  rw [withPort_chanAt]
  split
  · rfl
  · exact h _

@[simp] theorem updChan_withPort (i : Nat) (f : Channel → Channel) :
    updChan i f (s.withPort p a) = (updChan i f s).withPort p a := by simp [updChan]

@[simp] theorem setTarget_withPort (i : Nat) :
    setTarget i (s.withPort p a) = (setTarget i s).withPort p a :=
  withChan_withPort p a s fun _ => updChan_withPort p a s i _

@[simp] theorem reaim_withPort (i : Nat) : reaim i (s.withPort p a) = (reaim i s).withPort p a :=
  withChan_withPort p a s fun c => by simp

/-! ### The ruling -/

@[simp] theorem compareNote_withPort (i v : Nat) :
    compareNote i v (s.withPort p a) = (compareNote i v s).withPort p a :=
  withChan_withPort p a s fun c => by
    simp only [withPort_mode, updChan_withPort, recordClampNote_withPort, withPort_ite]
    rfl

@[simp] theorem countAbsorbed_withPort : countAbsorbed (s.withPort p a) = (countAbsorbed s).withPort p a := by
  simp only [countAbsorbed, withPort_chan, withPort_onChan, handWord_withPort, withPort_ite]
  rfl

@[simp] theorem absorbWrite_withPort (i v : Nat) (r : AbsorbReason) :
    absorbWrite i v r (s.withPort p a) = (absorbWrite i v r s).withPort p a :=
  withChan_withPort p a s fun c => by simp

@[simp] theorem setRequest_withPort (i v : Nat) :
    setRequest i v (s.withPort p a) = (setRequest i v s).withPort p a :=
  withChan_withPort p a s fun c => by simp

@[simp] theorem rangeEvent_withPort (i v : Nat) :
    rangeEvent i v (s.withPort p a) = (rangeEvent i v s).withPort p a :=
  withChan_withPort p a s fun c => by simp

@[simp] theorem startFlight_withPort (i : Nat) :
    startFlight i (s.withPort p a) = (startFlight i s).withPort p a := updChan_withPort ..

@[simp] theorem clearAbsorb_withPort (i : Nat) :
    clearAbsorb i (s.withPort p a) = (clearAbsorb i s).withPort p a := updChan_withPort ..

theorem ruleFollowed_withPort (i v : Nat) : ruleFollowed i v (s.withPort p a) =
    ((ruleFollowed i v s).1.withPort p a, (ruleFollowed i v s).2) := by
  simp only [ruleFollowed, setRequest_withPort, compareNote_withPort, clearAbsorb_withPort, withPort_chanAt]
  generalize clearAbsorb i (compareNote i v (setRequest i v s)) = t
  simp only [removeEntry_withPort, startFlight_withPort, reaim_withPort]
  split
  · rfl
  · split <;> rfl

/-- The ruling and its value are the same whatever the path unit and the arbiter hold. -/
theorem ruleHostWrite_withPort (i v : Nat) : ruleHostWrite i v (s.withPort p a) =
    ((ruleHostWrite i v s).1.withPort p a, (ruleHostWrite i v s).2) := by
  simp only [ruleHostWrite, ruleObserve, rangeEvent_withPort, withPort_chanAt]
  generalize rangeEvent i v s = t
  simp only [setRequest_withPort, compareNote_withPort, clearAbsorb_withPort, startFlight_withPort,
    absorbWrite_withPort, ruleFollowed_withPort, withPort_mode, withPort_gov]
  split
  · rfl
  · split
    · rfl
    · rfl
    · split
      · rfl
      · split <;> rfl
    · rfl
    · rfl

/-- The ruling changes neither the path unit nor the arbiter. -/
theorem ruleHostWrite_port (i v : Nat) :
    (ruleHostWrite i v s).1 = (ruleHostWrite i v s).1.withPort s.path s.arbiter :=
  congrArg Prod.fst (ruleHostWrite_withPort s.path s.arbiter s i v)

end
end Sys2Proof.Machine

namespace Sys2Proof.Machine

/-! ## PORT_GRANT: the host's next access begins, and the free port is granted (R14) -/

/-! ### How an access begins -/

section
variable {addr v : Word} {s : State}

theorem classify_control_of_not_blocked (hr : s.pins.resetHeld = false) (ha : addr.toNat ≤ 0x003F)
    (hb : ¬IsBlocked addr v s) : classify addr v s = .perform .control := by
  refine classify_control hr ha (fun e => ?_) (fun e => ?_)
  · exact Classical.byContradiction fun h => hb (.inl ⟨e, fun w => h (.inl w), fun w => h (.inr w)⟩)
  · exact Nat.le_of_not_lt fun h => hb (.inr (.inl ⟨e, h⟩))

theorem classify_plain_of_not_blocked (hr : s.pins.resetHeld = false) (ha : 0x0200 ≤ addr.toNat)
    (hb : ¬IsBlocked addr v s) (hc : s.channelAt addr = none) : classify addr v s = .perform .plain := by
  exact classify_plain hr ha
    (fun hg => Classical.byContradiction fun h => hb (.inr (.inr (.inr ⟨ha, hg, h⟩)))) hc

theorem beginAccess_performed {cls : AccessClass} (h : classify addr v s = .perform cls) :
    beginAccess ⟨addr, some v⟩ s = (s, some ⟨addr, false, v, cls⟩) := by simp [beginAccess, h]

end

/-- A request that the path unit lets through as it is begins as its access, and changes nothing. -/
theorem beginAccess_of_beginsAs {r : HostRequest} {a : HostAccess} {s : State} (h : BeginsAs r a s) :
    beginAccess r s = (s, some a) := by
  obtain ⟨addr, value⟩ := r
  obtain ⟨aaddr, isRead, w, cls⟩ := a
  rcases h with ⟨hv, ha⟩ | ⟨hv, hread, haddr, h⟩
  · dsimp only at hv
    subst hv
    rw [ha]
    rfl
  · dsimp only at hv hread haddr h
    subst hv hread haddr
    apply beginAccess_performed
    rcases h with ⟨hr, rfl⟩ | ⟨hr, rfl, ha, hb⟩ | ⟨hr, rfl, ha, hb, hc⟩
    · exact classify_held hr
    · exact classify_control_of_not_blocked hr ha hb
    · exact classify_plain_of_not_blocked hr ha hb hc

theorem joinRead_eq (read : Option Word) (s : State) : joinRead read s = s.onPath fun u =>
    { u with held := u.held ++ (read.map fun addr => (⟨addr, none⟩ : HostRequest)).toList } := by
  cases read with
  | none => simp [joinRead, State.onPath]
  | some addr => rfl

/-- The bus is held: nothing begins. -/
theorem startHeld_busy {s : State} (h : s.path.host ≠ none ∨ s.path.held = []) : startHeld s = s := by
  unfold startHeld
  split
  · next hhost hheld => simp [hhost, hheld] at h
  · rfl

/-- The bus is free: the first request that waits begins. -/
theorem startHeld_begins {s : State} {r : HostRequest} {rest : List HostRequest} (hh : s.path.host = none)
    (hr : s.path.held = r :: rest) :
    startHeld s = (beginAccess r (s.onPath fun u => { u with held := rest })).1.onPath fun u =>
      { u with host := (beginAccess r (s.onPath fun u => { u with held := rest })).2 } := by
  simp only [startHeld, hh, hr]

/-- An access of the host is under way, and the others wait behind it. -/
def State.begun (a : HostAccess) (rest : List HostRequest) (s : State) : State :=
  { s with path := { s.path with host := some a, held := rest } }

/-- The host's next access, one that waits or one that begins now, is the one under way when the port is
granted. -/
theorem startHeld_joinRead {s : State} {read : Option Word} {a : HostAccess} {rest : List HostRequest}
    (h : let requests := s.path.held ++ (read.map fun addr => (⟨addr, none⟩ : HostRequest)).toList
      (s.path.host = some a ∧ rest = requests) ∨
        (s.path.host = none ∧ rest = requests.tail ∧ ∃ r, requests.head? = some r ∧ BeginsAs r a s)) :
    startHeld (joinRead read s) = s.begun a rest := by
  rw [joinRead_eq]
  rcases h with ⟨hhost, rfl⟩ | ⟨hhost, rfl, r, hr, hb⟩
  · rw [startHeld_busy (.inl (by simp [hhost]))]
    simp [State.onPath, State.begun, ← hhost]
  · obtain ⟨rest, hrest⟩ := List.head?_eq_some_iff.mp hr
    have first : ∀ t : State, t.path.host = none → t.path.held = r :: rest → BeginsAs r a t →
        startHeld t = t.begun a rest := fun t hh hr hb => by
      rw [startHeld_begins hh hr, beginAccess_of_beginsAs (by exact hb)]
      rfl
    refine Eq.trans (first _ hhost hrest hb) ?_
    rw [hrest]
    rfl

/-! ### The arbiter's choice -/

section
variable {s : State}

theorem arbitrate_held (h : s.arbiter.port ≠ none) : arbitrate s = s := by
  rw [arbitrate, if_pos (Option.isSome_iff_ne_none.mpr h)]

theorem arbitrate_idle (hh : s.path.host = none) (ho : guardOffer s = none) : arbitrate s = s := by
  unfold arbitrate
  rw [hh, ho]
  split <;> rfl

theorem arbitrate_host {a : HostAccess} (hp : s.arbiter.port = none) (hh : s.path.host = some a)
    (hw : guardOffer s = none ∨ s.arbiter.record = .guard) : arbitrate s = grantHost a s := by
  unfold arbitrate
  rw [hp, hh]
  cases ho : guardOffer s with
  | none => rfl
  | some p =>
    have : s.arbiter.record = .guard := hw.resolve_left (by simp [ho])
    simp [this]

theorem arbitrate_guard {p : PortAccess} (hp : s.arbiter.port = none) (ho : guardOffer s = some p)
    (hw : s.path.host = none ∨ s.arbiter.record = .host) : arbitrate s = grantGuard p s := by
  unfold arbitrate
  rw [hp, ho]
  cases hh : s.path.host with
  | none => rfl
  | some a =>
    have : s.arbiter.record = .host := hw.resolve_left (by simp [hh])
    simp [this]

theorem grantHost_write {a : HostAccess} (h : a.isRead = false) : grantHost a s =
    { s with path := { s.path with host := some a }, arbiter := ⟨.host, some .host⟩ } := by
  simp only [grantHost, h, Bool.false_eq_true, if_false]
  rfl

/-- A read returns what memory holds when it is granted; one of the summary word goes to the report unit. -/
theorem grantHost_read {a : HostAccess} (h : a.isRead = true) : grantHost a s =
    let t := { s with
      path := { s.path with host := none, hostData := s.readMem a.addr }, arbiter := ⟨.host, none⟩ }
    if a.cls = .read ∧ a.addr = 0x004F#16 ∧ s.pins.resetHeld = false then summaryRead (s.readMem a.addr) t
    else t := by
  simp only [grantHost, h, if_true, completeAccess]
  rfl

theorem grantGuard_storesNothing (p : PortAccess) (s : State) : StoresNothing s (grantGuard p s) := fun a => by
  unfold State.readMem
  rw [grantGuard_mem]

end

/-! ### A read of the summary word (R3, R173) -/

theorem and_not_eq_self_iff (x y : BitVec 8) : x &&& ~~~y = x ↔ x &&& y = 0 := by
  constructor <;> refine fun h => BitVec.eq_of_getLsbD_eq fun i hi => ?_
  all_goals
    have bit := congrArg (fun z => BitVec.getLsbD z i) h
    simp only [BitVec.getLsbD_and, BitVec.getLsbD_not, hi, decide_true] at bit ⊢
    revert bit
    cases x.getLsbD i <;> cases y.getLsbD i <;> simp

/-- Causes that are acknowledged leave the latches; where none of them is latched nothing changes. -/
theorem clearCauses_latches (bits : BitVec 8) (s : State) :
    (clearCauses bits s).report.latches = s.report.latches &&& ~~~bits := by
  unfold clearCauses
  split
  · next h => exact ((and_not_eq_self_iff _ _).mpr h).symm
  · rfl

/-- The report unit takes a read of the summary word. -/
theorem summaryRead_taken (v : Word) (s : State) : SummaryTaken v s (summaryRead v s) := by
  unfold summaryRead
  by_cases hm : s.report.ackMode = 1
  · rw [if_pos hm]
    refine ⟨?_, ?_, fun h => ?_, fun h => ?_⟩
    · unfold clearCauses
      split <;> rfl
    · rw [if_pos hm, clearCauses_latches]
    · rw [clearCauses_latches, and_not_eq_self_iff] at h
      rw [clearCauses, if_pos h]
    · rw [clearCauses_latches, ne_eq, and_not_eq_self_iff] at h
      rw [clearCauses, if_neg h]
      exact ⟨rfl, by rw [Hands, setLatches_waiting, if_pos rfl]; rfl⟩
  · rw [if_neg hm]
    exact ⟨rfl, (if_neg hm).symm, fun _ => rfl, fun h => absurd rfl h⟩

theorem summaryRead_frame (v : Word) (s : State) :
    summaryRead v s = { s with report := (summaryRead v s).report } := by
  unfold summaryRead
  split
  · exact (clearCauses_reports s _).frame
  · rfl

/-! ### The ruling on a write of a channel word -/

section
variable {s : State} {addr v : Word} {i : Nat}

/-- The access that a ruling leaves to be performed, if any. -/
def ruledAccess (i : Nat) (addr v : Word) (s : State) : Option HostAccess :=
  (ruleHostWrite i v.toNat s).2.map fun x => ⟨addr, false, wordOf x, .channel⟩

theorem ruledAccess_withPort (p : PathUnit) (a : ArbiterUnit) :
    ruledAccess i addr v (s.withPort p a) = ruledAccess i addr v s := by
  rw [ruledAccess, ruleHostWrite_withPort, ruledAccess]

/-- A channel-word write that begins is ruled on. -/
theorem beginAccess_rule (hx : s.pins.resetHeld = false) (ha : 0x1000 ≤ addr.toNat ∧ addr.toNat ≤ 0x7FFF)
    (hc : s.channelAt addr = some i) :
    beginAccess ⟨addr, some v⟩ s = ((ruleHostWrite i v.toNat s).1, ruledAccess i addr v s) := by
  simp only [beginAccess, classify_rule hx ha hc, ruledAccess]

/-- The first of the requests that wait is a channel-word write: it is ruled on, and holds the bus if it is
to be performed. -/
theorem startHeld_rule {rest : List HostRequest} (hh : s.path.host = none)
    (hr : s.path.held = ⟨addr, some v⟩ :: rest) (hx : s.pins.resetHeld = false)
    (ha : 0x1000 ≤ addr.toNat ∧ addr.toNat ≤ 0x7FFF) (hc : s.channelAt addr = some i) :
    startHeld s = (ruleHostWrite i v.toNat s).1.withPort
      { s.path with host := ruledAccess i addr v s, held := rest } s.arbiter := by
  have released : (s.onPath fun u => { u with held := rest }) =
    s.withPort { s.path with held := rest } s.arbiter := rfl
  rw [startHeld_begins hh hr, released, beginAccess_rule (by exact hx) ha (by exact hc),
    ruleHostWrite_withPort, ruledAccess_withPort]
  rfl

/-- The host's bus is free: a channel-word write is ruled on; if it is to be performed it is the access under
way, and holds the port if it wins it. -/
theorem hostWrite_rule (hf : BusFree s) (hx : s.pins.resetHeld = false)
    (ha : 0x1000 ≤ addr.toNat ∧ addr.toNat ≤ 0x7FFF) (hc : s.channelAt addr = some i) :
    hostWrite addr v s = (ruleHostWrite i v.toNat s).1.withPort
      { s.path with host := ruledAccess i addr v s }
      (if (ruledAccess i addr v s).isSome ∧ s.arbiter.port = none ∧
          hostWins (ruleHostWrite i v.toNat s).1 then ⟨.host, some .host⟩ else s.arbiter) := by
  have hport := ruleHostWrite_port s i v.toNat
  have hh := hf.1
  rw [hostWrite_begins hf, classify_rule hx ha hc]
  unfold ruledAccess
  dsimp only
  rcases hrule : ruleHostWrite i v.toNat s with ⟨t, _ | x⟩ <;> rw [hrule] at hport <;>
    dsimp only at hport ⊢
  · have free : s.path = { s.path with host := none } := by rw [← hh]
    rw [if_neg (by simp), Option.map_none, ← free]
    exact hport
  · have harb : t.arbiter = s.arbiter := by rw [hport]; rfl
    have hpath : t.path = s.path := by rw [hport]; rfl
    unfold submit
    rw [harb]
    by_cases hw : s.arbiter.port = none ∧ hostWins t = true
    · simp only [hw, Option.isNone_none, Bool.and_self, if_true, Option.map_some, Option.isSome_some, and_self]
      rw [grantHost_write rfl, hpath]
      rfl
    · have : ¬(s.arbiter.port.isNone && hostWins t) = true := by simpa using hw
      rw [if_neg this, if_neg fun h => hw h.2, ← harb, ← hpath]
      rfl

/-- A channel-word write that does not win the port waits as ruled. -/
theorem hostWrite_rule_waits (hf : BusFree s) (hx : s.pins.resetHeld = false)
    (ha : 0x1000 ≤ addr.toNat ∧ addr.toNat ≤ 0x7FFF) (hc : s.channelAt addr = some i)
    (hw : s.arbiter.port ≠ none ∨ hostWins (ruleHostWrite i v.toNat s).1 = false) :
    hostWrite addr v s = (ruleHostWrite i v.toNat s).1.withPort
      { s.path with host := ruledAccess i addr v s } s.arbiter := by
  rw [hostWrite_rule hf hx ha hc, if_neg]
  rintro ⟨-, hp, ht⟩
  rcases hw with hw | hw
  · exact hw hp
  · simp [ht] at hw

end

/-- The guard's access is granted and nothing else changes. -/
theorem grantGuard_gives (p : PortAccess) (s : State) :
    grantGuard p s = { s with
      arbiter := ⟨.guard, some p⟩, ramp := (grantGuard p s).ramp, report := (grantGuard p s).report } ∧
    GuardGranted p s (grantGuard p s) ∧ StoresNothing s (grantGuard p s) :=
  ⟨(grantGuard_granted p s).1, (grantGuard_granted p s).2, grantGuard_storesNothing p s⟩

/-- The port is granted with the host's next access under way. -/
theorem exec_portGrant_begun {s : State} {read : Option Word} {a : HostAccess} {rest : List HostRequest}
    (h : let requests := s.path.held ++ (read.map fun addr => (⟨addr, none⟩ : HostRequest)).toList
      (s.path.host = some a ∧ rest = requests) ∨
        (s.path.host = none ∧ rest = requests.tail ∧ ∃ r, requests.head? = some r ∧ BeginsAs r a s)) :
    exec (.portGrant read) s = .next (arbitrate (s.begun a rest)) := by
  rw [← startHeld_joinRead h]
  rfl

theorem exec_portGrant_none (s : State) : exec (.portGrant none) s = .next (arbitrate (startHeld s)) := rfl

/-- The first of the requests that wait is a blocked write: it ends as it begins. -/
theorem startHeld_blocked {s : State} {addr v : Word} {rest : List HostRequest} (hh : s.path.host = none)
    (hheld : s.path.held = ⟨addr, some v⟩ :: rest) (hr : s.pins.resetHeld = false)
    (hb : IsBlocked addr v s) :
    startHeld s = blockWrite addr { s with path := { s.path with held := rest } } := by
  have hcls : classify addr v { s with path := { s.path with held := rest } } = .blocked :=
    classify_blocked hr hb
  have released : (s.onPath fun u => { u with held := rest }) =
    { s with path := { s.path with held := rest } } := rfl
  rw [startHeld_begins hh hheld, released]
  simp only [beginAccess, hcls]
  rw [blockWrite_frame]
  simp [State.onPath, ← hh]

/-- Settles O14: what begins (`startHeld_joinRead`, `startHeld_rule`) is the host's side of the arbiter's
choice (`arbitrate_held`, `arbitrate_host`, `arbitrate_guard`). -/
theorem portGrantArbitrates : Obligations.PortGrantArbitrates := by
  refine ⟨fun s read a rest hstart => ?_, fun s hh hheld => ⟨fun h => ?_, fun p hp ho => ?_⟩,
    fun s addr v rest hh hheld hr => ⟨fun hp hb => ?_, fun ha hc => ?_⟩⟩
  · have hgrant := exec_portGrant_begun hstart
    refine ⟨fun hp => ⟨_, hgrant, arbitrate_held hp⟩, fun hp hw => ?_, fun p hp ho hrec => ?_⟩
    · rw [arbitrate_host (s := s.begun a rest) hp rfl hw] at hgrant
      refine ⟨fun hread => ⟨_, hgrant, grantHost_write hread⟩, fun hread => ⟨_, hgrant, ?_⟩⟩
      rw [grantHost_read hread]
      dsimp only
      split
      · next hsum =>
        obtain ⟨hcls, haddr, hreset⟩ := hsum
        refine ⟨summaryRead_frame _ _, fun _ => ?_, fun h => absurd ⟨hreset, hcls, haddr⟩ h⟩
        rw [haddr]
        exact summaryRead_taken _ _
      · next hsum =>
        exact ⟨rfl, fun ⟨hreset, hcls, haddr⟩ => absurd ⟨hcls, haddr, hreset⟩ hsum, fun _ => rfl⟩
    · rw [arbitrate_guard (s := s.begun a rest) hp ho (.inr hrec)] at hgrant
      exact ⟨_, hgrant, grantGuard_gives p _⟩
  · have hgrant := exec_portGrant_none s
    rw [startHeld_busy (.inr hheld)] at hgrant
    exact ⟨_, hgrant, h.elim arbitrate_held (arbitrate_idle hh)⟩
  · have hgrant := exec_portGrant_none s
    rw [startHeld_busy (.inr hheld), arbitrate_guard hp ho (.inl hh)] at hgrant
    exact ⟨_, hgrant, grantGuard_gives p s⟩
  · have hgrant := exec_portGrant_none s
    have hport : (blockWrite addr { s with path := { s.path with held := rest } }).arbiter.port ≠ none := by
      rw [blockWrite_frame]
      exact hp
    rw [startHeld_blocked hh hheld hr hb, arbitrate_held hport] at hgrant
    exact ⟨_, hgrant, blockWrite_onlyBlocked addr _⟩
  · obtain ⟨i, hc⟩ := Option.ne_none_iff_exists'.mp hc
    have hrule := hostWrite_rule_waits (v := v)
      (s := s.withPort { s.path with held := [] } ⟨s.arbiter.record, some .host⟩)
      ⟨hh, rfl⟩ hr ha hc (.inl (Option.some_ne_none _))
    have hbegin := startHeld_rule hh hheld hr ha hc
    rw [ruleHostWrite_withPort, ruledAccess_withPort] at hrule
    refine ⟨_, congrArg Host.Outcome.next hrule, fun hp => ⟨_, exec_portGrant_none s, ?_⟩,
      fun hfree => ?_⟩
    · rw [hbegin]
      exact arbitrate_held hp
    · have hgrant := exec_portGrant_none s
      rw [hbegin] at hgrant
      refine ⟨_, ?_, hgrant⟩
      rw [exec_portGrant_none, startHeld_busy hfree]
      rfl

end Sys2Proof.Machine

namespace Sys2Proof.Machine

/-! ## What the guard offers over a ruling

A ruling may take the last waiting entry out of the impose queue, but then the depth waits to be mirrored: the
guard goes on offering an access, so a contest for the port stays one (R14). -/

/-- No entry of the mirror list has been granted: no mirror write holds the port (R165). -/
def NoneGranted (r : ReportUnit) : Prop := ∀ e ∈ r.mirror, e.granted = false

/-- The lists of the report unit go on offering an access. -/
structure KeepsLists (r u : ReportUnit) : Prop where
  ungranted : NoneGranted r → NoneGranted u
  mirror : r.mirror ≠ [] → u.mirror ≠ []
  ring : r.ring ≠ [] → u.ring ≠ []

/-- The guard goes on offering an access: an imposed write that is no longer offered has left a word to be
mirrored. -/
structure KeepsOffer (s t : State) : Prop where
  pins : t.pins = s.pins
  profile : t.profile = s.profile
  lists : KeepsLists s.report t.report
  imposed : imposedOffer s ≠ none → imposedOffer t ≠ none ∨ t.report.mirror ≠ []

theorem KeepsLists.refl (r : ReportUnit) : KeepsLists r r := ⟨id, id, id⟩

theorem KeepsLists.trans {r u v : ReportUnit} (h : KeepsLists r u) (k : KeepsLists u v) : KeepsLists r v :=
  ⟨k.ungranted ∘ h.ungranted, k.mirror ∘ h.mirror, k.ring ∘ h.ring⟩

theorem KeepsOffer.refl (s : State) : KeepsOffer s s := ⟨rfl, rfl, .refl _, .inl⟩

theorem KeepsOffer.trans {s t u : State} (h : KeepsOffer s t) (k : KeepsOffer t u) : KeepsOffer s u where
  pins := k.pins.trans h.pins
  profile := k.profile.trans h.profile
  lists := h.lists.trans k.lists
  imposed e := (h.imposed e).elim k.imposed fun m => .inr (k.lists.mirror m)

/-! ### The offers, by the lists they come from -/

theorem mirrorOffer_ne_none_iff {s : State} (h : NoneGranted s.report) :
    mirrorOffer s ≠ none ↔ s.report.mirror ≠ [] := by
  cases hm : s.report.mirror with
  | nil => simp [mirrorOffer, hm]
  | cons e l =>
    have : e.granted = false := h e (by simp [hm])
    simp [mirrorOffer, hm, this]

theorem ringOffer_ne_none_iff (s : State) : ringOffer s ≠ none ↔ s.report.ring ≠ [] := by
  cases hr : s.report.ring <;> simp [ringOffer, hr]

theorem guardOffer_ne_none_iff (s : State) : guardOffer s ≠ none ↔ s.pins.resetHeld = false ∧
    (imposedOffer s ≠ none ∨ ringOffer s ≠ none ∨ mirrorOffer s ≠ none ∨ readOffer s ≠ none) := by
  unfold guardOffer
  cases s.pins.resetHeld
  · simp only [Bool.false_eq_true, if_false, true_and, ne_eq, Option.or_eq_none_iff,
      Classical.not_and_iff_not_or_not]
  · simp

theorem imposedOffer_ne_none_iff (s : State) : imposedOffer s ≠ none ↔ s.pins.gap = true ∧
    ∃ e, s.ramp.queue.find? (fun e => !e.granted) = some e ∧ (s.chanAt e.channel).isSome = true := by
  unfold imposedOffer
  cases s.pins.gap
  · simp
  · cases s.ramp.queue.find? (fun e => !e.granted) <;> simp [Option.isSome_iff_ne_none]

/-- While no mirror write is granted, an access is still offered. -/
theorem KeepsOffer.guardOffer {s t : State} (h : KeepsOffer s t) (hn : NoneGranted s.report)
    (ho : guardOffer s ≠ none) : guardOffer t ≠ none := by
  have hread : readOffer t = readOffer s := by unfold readOffer; rw [h.profile]
  rw [guardOffer_ne_none_iff, ringOffer_ne_none_iff, mirrorOffer_ne_none_iff hn] at ho
  rw [guardOffer_ne_none_iff, ringOffer_ne_none_iff, mirrorOffer_ne_none_iff (h.lists.ungranted hn),
    h.pins, hread]
  obtain ⟨hr, ho⟩ := ho
  refine ⟨hr, ?_⟩
  rcases ho with ho | ho | ho | ho
  · rcases h.imposed ho with ht | ht
    · exact .inl ht
    · exact .inr (.inr (.inl ht))
  · exact .inr (.inl (h.lists.ring ho))
  · exact .inr (.inr (.inl (h.lists.mirror ho)))
  · exact .inr (.inr (.inr ho))

/-! ### Reports -/

theorem mirrorPut_ne_nil (a v : Word) (l : List MirrorEntry) : mirrorPut a v l ≠ [] := by
  cases l with
  | nil => simp [mirrorPut]
  | cons e l => unfold mirrorPut; split <;> simp

theorem mirrorPut_ungranted (a v : Word) {l : List MirrorEntry} (h : ∀ e ∈ l, e.granted = false) :
    ∀ e ∈ mirrorPut a v l, e.granted = false := by
  induction l with
  | nil => simp [mirrorPut]
  | cons d l ih =>
    obtain ⟨hd, hl⟩ := List.forall_mem_cons.mp h
    unfold mirrorPut
    split
    · simp only [hd, Bool.false_eq_true, if_false]
      exact List.forall_mem_cons.mpr ⟨rfl, hl⟩
    · exact List.forall_mem_cons.mpr ⟨hd, ih hl⟩

section
variable (s : State)

theorem handWord_lists (a v : Word) : KeepsLists s.report (handWord a v s).report :=
  ⟨mirrorPut_ungranted a v, fun _ => mirrorPut_ne_nil a v _, id⟩

theorem refreshWord_lists (a : Word) (view : State → Word) (before : State) :
    KeepsLists s.report (refreshWord a view before s).report := by
  rcases refreshWord_cases a view before s with ⟨-, e⟩ | ⟨-, e⟩ <;> rw [e]
  · exact .refl _
  · exact handWord_lists s a _

/-- What changes the mode unit and the report unit alone leaves the impose queue's offer. -/
theorem keepsOffer_of_frame {s t : State} (h : t = { s with mode := t.mode, report := t.report })
    (hl : KeepsLists s.report t.report) : KeepsOffer s t := by
  refine ⟨by rw [h], by rw [h], hl, fun ho => .inl ?_⟩
  rw [h]
  exact ho

theorem refreshWord_keepsOffer (a : Word) (view : State → Word) (before : State) :
    KeepsOffer s (refreshWord a view before s) :=
  keepsOffer_of_frame (by rw [(refreshWord_reports a view before s).frame]) (refreshWord_lists s a view before)

theorem appendEvent_keepsOffer (head : Word) (d : List (Word × Word)) :
    KeepsOffer s (appendEvent head d s) := by
  refine keepsOffer_of_frame (by rw [(appendEvent_reports head d s).frame]) ?_
  rcases appendEvent_cases head d s with ⟨-, e⟩ | ⟨-, e⟩ <;> rw [e]
  · exact ⟨id, id, fun h k => h (List.append_eq_nil_iff.mp k).1⟩
  · exact ⟨mirrorPut_ungranted _ _, fun _ => mirrorPut_ne_nil _ _ _, id⟩

theorem recordEvent_keepsOffer (k : EventKind) (w a b : Nat) : KeepsOffer s (recordEvent k w a b s) :=
  appendEvent_keepsOffer s _ _

theorem deriveDryhold_keepsOffer : KeepsOffer s (deriveDryhold s) :=
  keepsOffer_of_frame (by rw [deriveDryhold_frame])
    ((refreshWord_lists (s.onMode _) _ _ s).trans (refreshWord_lists _ _ _ s))

/-! ### The queue and the channels -/

/-- A change of the queue that keeps its first waiting entry, but for its value. -/
theorem onRamp_keepsOffer {f : RampUnit → RampUnit}
    (h : ∀ e, s.ramp.queue.find? (fun e => !e.granted) = some e →
      ∃ d, (f s.ramp).queue.find? (fun e => !e.granted) = some d ∧ d.channel = e.channel) :
    KeepsOffer s (s.onRamp f) := by
  refine ⟨rfl, rfl, .refl _, fun ho => .inl ?_⟩
  rw [imposedOffer_ne_none_iff] at ho ⊢
  obtain ⟨hg, e, he, hc⟩ := ho
  obtain ⟨d, hd, hch⟩ := h e he
  refine ⟨hg, d, hd, ?_⟩
  rw [hch]
  exact hc

theorem setStallFlag_keepsOffer (b : Bool) : KeepsOffer s (setStallFlag b s) :=
  (onRamp_keepsOffer s fun e he => ⟨e, he, rfl⟩).trans (refreshWord_keepsOffer _ _ _ s)

theorem ifEmptied_keepsOffer (d : Nat) : KeepsOffer s (ifEmptied d s) := by
  have h : KeepsOffer s (s.onRamp fun u => { u with stallTimer := none }) :=
    onRamp_keepsOffer s fun e he => ⟨e, he, rfl⟩
  unfold ifEmptied queueEmptied
  dsimp only
  split
  · split
    · exact h.trans ((setStallFlag_keepsOffer _ _).trans
        ((recordEvent_keepsOffer _ _ _ _ _).trans (deriveDryhold_keepsOffer _)))
    · exact h
  · exact .refl s

/-- An entry that leaves hands the depth on. -/
theorem leaveQueue_keepsOffer (i : Nat) : KeepsOffer s (leaveQueue i s) := by
  have hq := (leaveQueue_queues i s).frame
  exact ⟨by rw [hq], by rw [hq], (refreshWord_lists (s.onRamp _) _ _ s).trans (handWord_lists _ _ _),
    fun _ => .inr (mirrorPut_ne_nil _ _ _)⟩

theorem removeEntry_keepsOffer (i : Nat) : KeepsOffer s (removeEntry i s) := by
  unfold removeEntry
  split
  · exact .refl s
  · split
    · exact .refl s
    · exact (leaveQueue_keepsOffer s i).trans (ifEmptied_keepsOffer _ 1)

theorem find_replaceEntry (i v : Nat) (b : Bool) {q : List QueueEntry} {e : QueueEntry}
    (h : q.find? (fun e => !e.granted) = some e) :
    ∃ d, (replaceEntry i v b q).find? (fun e => !e.granted) = some d ∧ d.channel = e.channel := by
  have same : ((fun e : QueueEntry => !e.granted) ∘ fun e : QueueEntry =>
      if e.channel = i then { e with value := v, pin := b } else e) = fun e => !e.granted := by
    funext e
    dsimp only [Function.comp]
    split <;> rfl
  refine ⟨if e.channel = i then { e with value := v, pin := b } else e, ?_, by split <;> rfl⟩
  rw [replaceEntry, List.find?_map, same, h]
  rfl

theorem putEntry_keepsOffer (i v : Nat) (b : Bool) : KeepsOffer s (putEntry i v b s) := by
  unfold putEntry
  split
  · refine KeepsOffer.trans ?_ ((refreshWord_keepsOffer _ (chanWordAddr i) (fun t => t.chanWord i) s).trans
      (keepsOffer_of_frame rfl (handWord_lists _ _ _)))
    exact onRamp_keepsOffer s fun e he => ⟨e, by simp [List.find?_append, he], rfl⟩
  · split
    · exact .refl s
    · refine onRamp_keepsOffer s fun e he => ?_
      obtain ⟨d, hd, hc⟩ := find_replaceEntry i v b he
      exact ⟨d, hd, hc⟩

/-- A change of a channel's record that keeps its table entry. -/
theorem updChan_keepsOffer (i : Nat) {f : Channel → Channel} (hf : ∀ c, (f c).cfg = c.cfg) :
    KeepsOffer s (updChan i f s) := by
  have hs := updChan_frame i f s
  refine ⟨by rw [hs], by rw [hs], refreshWord_lists (s.onChan _) _ _ s, fun ho => .inl ?_⟩
  rw [imposedOffer_ne_none_iff] at ho ⊢
  obtain ⟨hg, e, he, hc⟩ := ho
  refine ⟨by rw [hs]; exact hg, e, by rw [updChan_ramp]; exact he, ?_⟩
  rw [updChan_chanAt i f s hf]
  split <;> simpa using hc

theorem KeepsOffer.updChan {s t : State} (h : KeepsOffer s t) (i : Nat) {f : Channel → Channel}
    (hf : ∀ c, (f c).cfg = c.cfg) : KeepsOffer s (Machine.updChan i f t) :=
  h.trans (updChan_keepsOffer t i hf)

theorem setTarget_keepsOffer (i : Nat) : KeepsOffer s (setTarget i s) :=
  withChan_rel KeepsOffer.refl fun _ _ => by exact updChan_keepsOffer s i fun _ => rfl

theorem reaim_keepsOffer (i : Nat) : KeepsOffer s (reaim i s) := by
  refine withChan_rel KeepsOffer.refl fun c _ => ?_
  split
  · exact .refl s
  · split
    · exact removeEntry_keepsOffer s i
    · split
      · exact putEntry_keepsOffer s i _ _
      · split
        · exact putEntry_keepsOffer s i _ _
        · exact .refl s

/-! ### The ruling -/

theorem setRequest_keepsOffer (i v : Nat) : KeepsOffer s (setRequest i v s) := by
  refine withChan_rel KeepsOffer.refl fun c _ => ?_
  split
  · exact .refl s
  · refine KeepsOffer.trans ?_ (setTarget_keepsOffer _ i)
    exact updChan_keepsOffer s i fun _ => rfl

theorem compareNote_keepsOffer (i v : Nat) : KeepsOffer s (compareNote i v s) := by
  refine withChan_rel KeepsOffer.refl fun c _ => ?_
  split
  · exact updChan_keepsOffer s i fun _ => rfl
  · split
    · exact .refl s
    · exact KeepsOffer.updChan (appendEvent_keepsOffer s _ _) i fun _ => rfl

theorem countAbsorbed_keepsOffer : KeepsOffer s (countAbsorbed s) := by
  unfold countAbsorbed
  dsimp only
  split
  · exact .refl s
  · exact KeepsOffer.trans (t := s.onChan _) ⟨rfl, rfl, .refl _, .inl⟩
      (keepsOffer_of_frame rfl (handWord_lists _ _ _))

theorem absorbWrite_keepsOffer (i v : Nat) (r : AbsorbReason) : KeepsOffer s (absorbWrite i v r s) := by
  refine withChan_rel KeepsOffer.refl fun c _ => ?_
  dsimp only
  split
  · exact countAbsorbed_keepsOffer s
  · exact KeepsOffer.updChan ((countAbsorbed_keepsOffer s).trans (recordEvent_keepsOffer _ _ _ _ _)) i
      fun _ => rfl

theorem rangeEvent_keepsOffer (i v : Nat) : KeepsOffer s (rangeEvent i v s) := by
  refine withChan_rel KeepsOffer.refl fun c _ => ?_
  split
  · exact recordEvent_keepsOffer s _ _ _ _
  · exact .refl s

theorem startFlight_keepsOffer (i : Nat) : KeepsOffer s (startFlight i s) := updChan_keepsOffer s i fun _ => rfl

theorem clearAbsorb_keepsOffer (i : Nat) : KeepsOffer s (clearAbsorb i s) := updChan_keepsOffer s i fun _ => rfl

/-- A write that is performed or followed has its request taken and compared, and clears the absorb note. -/
theorem noted_keepsOffer (i v : Nat) : KeepsOffer s (clearAbsorb i (compareNote i v (setRequest i v s))) :=
  (setRequest_keepsOffer s i v).trans ((compareNote_keepsOffer _ i v).trans (clearAbsorb_keepsOffer _ i))

theorem ruleFollowed_keepsOffer (i v : Nat) : KeepsOffer s (ruleFollowed i v s).1 := by
  have h := noted_keepsOffer s i v
  unfold ruleFollowed
  generalize clearAbsorb i (compareNote i v (setRequest i v s)) = t at h ⊢
  dsimp only
  split
  · exact h
  · split
    · exact h.trans ((removeEntry_keepsOffer _ i).trans (startFlight_keepsOffer _ i))
    · exact h.trans (reaim_keepsOffer _ i)

/-- A ruling leaves the guard with an access to offer. -/
theorem ruleHostWrite_keepsOffer (i v : Nat) : KeepsOffer s (ruleHostWrite i v s).1 := by
  have h := rangeEvent_keepsOffer s i v
  unfold ruleHostWrite ruleObserve
  generalize rangeEvent i v s = t at h ⊢
  split
  · exact .refl s
  · dsimp only
    split
    · exact h
    · exact h.trans ((noted_keepsOffer _ i v).trans (startFlight_keepsOffer _ i))
    · split
      · exact h.trans (absorbWrite_keepsOffer _ i v _)
      · split
        · exact h.trans ((setRequest_keepsOffer _ i v).trans (absorbWrite_keepsOffer _ i v _))
        · exact h.trans (ruleFollowed_keepsOffer _ i v)
    · exact h.trans ((setRequest_keepsOffer _ i v).trans (absorbWrite_keepsOffer _ i v _))
    · exact h.trans ((setRequest_keepsOffer _ i v).trans (absorbWrite_keepsOffer _ i v _))

end

/-! ## Accesses that wait (R14) -/

/-- The host's access does not get the port at once. -/
def Contested (s : State) : Prop :=
  s.arbiter.port ≠ none ∨ (guardOffer s ≠ none ∧ s.arbiter.record = .host)

section
variable {s : State} {addr v : Word}

/-- A write that is performed as it is waits with its class. -/
theorem hostWrite_performed_waits {cls : AccessClass} (hf : BusFree s) (hc : Contested s)
    (hcls : classify addr v s = .perform cls) :
    hostWrite addr v s = { s with path := { s.path with host := some ⟨addr, false, v, cls⟩ } } := by
  rw [hostWrite_begins hf, hcls]
  exact submit_waits hc

theorem hostRead_waits (hf : BusFree s) (hc : Contested s) :
    hostAccess ⟨addr, none⟩ s = { s with path := { s.path with
      host := some ⟨addr, true, 0, if s.pins.resetHeld then .transparent else .read⟩ } } := by
  have free : busHeld s = false := by simp [busHeld, hf.1, hf.2]
  simp only [hostAccess, free, Bool.false_eq_true, if_false, beginAccess]
  exact submit_waits hc

theorem hostAccess_held {r : HostRequest} (h : s.path.host ≠ none) :
    hostAccess r s = { s with path := { s.path with held := s.path.held ++ [r] } } := by
  have : busHeld s = true := by simp [busHeld, Option.isSome_iff_ne_none.mpr h]
  simp only [hostAccess, this, if_true]
  rfl

/-- After the ruling of a contested write the host does not win the free port either. -/
theorem ruled_loses {i : Nat} (hc : Contested s)
    (hm : s.arbiter.port = none → ∀ e ∈ s.report.mirror, e.granted = false) :
    s.arbiter.port ≠ none ∨ hostWins (ruleHostWrite i v.toNat s).1 = false := by
  by_cases hp : s.arbiter.port = none
  · obtain ⟨ho, hrec⟩ := hc.resolve_left (fun n => n hp)
    have hoffer := (ruleHostWrite_keepsOffer s i v.toNat).guardOffer (hm hp) ho
    have harb : (ruleHostWrite i v.toNat s).1.arbiter = s.arbiter := by
      rw [ruleHostWrite_port]
      rfl
    right
    simp [hostWins, harb, hrec, Option.ne_none_iff_isSome.mp hoffer]
  · exact .inl hp

/-- A contested channel-word write is ruled on as if the port were free, and then waits. -/
theorem hostWrite_rule_contested {i : Nat} (hf : BusFree s) (hc : Contested s) (hx : s.pins.resetHeld = false)
    (ha : 0x1000 ≤ addr.toNat ∧ addr.toNat ≤ 0x7FFF) (hi : s.channelAt addr = some i)
    (hm : s.arbiter.port = none → ∀ e ∈ s.report.mirror, e.granted = false) :
    hostWrite addr v s =
      { hostWrite addr v { s with arbiter := ⟨.guard, none⟩ } with arbiter := s.arbiter } := by
  have free : { s with arbiter := ⟨.guard, none⟩ } = s.withPort s.path ⟨.guard, none⟩ := rfl
  rw [hostWrite_rule_waits hf hx ha hi (ruled_loses hc hm), free,
    hostWrite_rule (s := s.withPort s.path ⟨.guard, none⟩) hf hx ha hi, ruleHostWrite_withPort,
    ruledAccess_withPort]
  rfl

end

/-- Settles O20: an access of each kind waits by the lemma of its kind. -/
theorem contendedWriteWaits : Obligations.ContendedWriteWaits := by
  refine ⟨fun i s addr v hw => ⟨fun hf hc => ⟨fun hr => ?_, fun hr => ⟨fun ha hb => ?_, fun ha hb hi => ?_,
    fun ha hi hm => ?_⟩⟩, fun hh => ?_⟩, fun s => ⟨fun hf hc => ?_, fun hh => ?_⟩⟩
  · exact gives_write hw (hostWrite_performed_waits hf hc (classify_held hr))
  · exact gives_write hw (hostWrite_performed_waits hf hc (classify_control_of_not_blocked hr ha hb))
  · exact gives_write hw (hostWrite_performed_waits hf hc (classify_plain_of_not_blocked hr ha hb hi))
  · obtain ⟨j, hj⟩ := Option.ne_none_iff_exists'.mp hi
    exact gives_write hw (gives_write hw (hostWrite_rule_contested hf hc hr ha hj hm))
  · exact gives_write hw (hostAccess_held hh)
  · exact ⟨_, rfl, hostRead_waits hf hc⟩
  · exact ⟨_, rfl, hostAccess_held hh⟩

end Sys2Proof.Machine
